-- ==== Sys2Proof/Word.lean ====
section
/-! DEFINITION. The machine word: a vector of 32 bits (R8, R61), and the wrap of an integer into it. -/

namespace Sys2Proof

/-- A storage cell, `bus`, `ip`, `A`, `B`, `hi`, `lo`: 32 untyped bits (R8). -/
abbrev Word := BitVec 32

/-- `w32(n)` of R8: the word whose unsigned value is `n mod 2^32`, for any integer `n`. -/
abbrev w32 (n : Int) : Word := BitVec.ofInt 32 n

/-- `s(v)` of R8: the word read as a two's-complement integer. -/
abbrev signed (v : Word) : Int := v.toInt

/-- `u(v)` of R8: the word read as an unsigned integer. -/
abbrev unsigned (v : Word) : Nat := v.toNat

end Sys2Proof
end

