-- ==== Sys2Proof/Syntax.lean ====
section
/-! DEFINITION. The 25 instructions of R96, one constructor per row of spec/opcode_table.json, and their opcodes. -/

namespace Sys2Proof

/-- The 25 operations of R96, in the order of its table. -/
inductive Opcode where
  | nop | ldrp | strp | ldr | str | push | add | neg | mul | div | jmp | jgt | jlt | jeq | grow | sys | halt | pause
  | lda | sta | ldi | fmode | imode | mflo | mfhi
  deriving DecidableEq, Repr

/-- An instruction with its operand word, where its format has one (R91). The operand is "the full 32-bit operand word,
used unmodified" (R101): its reading (signed offset, absolute address, immediate) is the meaning's. -/
inductive Instr where
  /-- `NOP` (R221). -/
  | nop
  /-- `LDRP off`: load via relative-pointer (R141). -/
  | ldrp (off : Word)
  /-- `STRP off`: store via relative-pointer (R142). -/
  | strp (off : Word)
  /-- `LDR off`: load via relative-direct (R143). -/
  | ldr (off : Word)
  /-- `STR off`: store via relative-direct (R144). -/
  | str (off : Word)
  /-- `PUSH`: push bus to ALU (R161). -/
  | push
  /-- `ADD` (R162). -/
  | add
  /-- `NEG` (R163). -/
  | neg
  /-- `MUL` (R164). -/
  | mul
  /-- `DIV` (R165). -/
  | div
  /-- `JMP`: unconditional jump, relative, offset in `bus` (R201). -/
  | jmp
  /-- `JGT off` (R202). -/
  | jgt (off : Word)
  /-- `JLT off` (R203). -/
  | jlt (off : Word)
  /-- `JEQ off` (R204). -/
  | jeq (off : Word)
  /-- `GROW`: grow address space (R222). -/
  | grow
  /-- `SYS arg`: syscall (R223). -/
  | sys (arg : Word)
  /-- `HALT` (R224). -/
  | halt
  /-- `PAUSE` (R225). -/
  | pause
  /-- `LDA addr`: load via absolute-direct (R145). -/
  | lda (addr : Word)
  /-- `STA addr`: store via absolute-direct (R146). -/
  | sta (addr : Word)
  /-- `LDI imm`: load-immediate (R147). -/
  | ldi (imm : Word)
  /-- `FMODE`: switch ALU to float mode (R166). -/
  | fmode
  /-- `IMODE`: switch ALU to int mode (R167). -/
  | imode
  /-- `MFLO`: move ALU `lo` to bus (R168). -/
  | mflo
  /-- `MFHI`: move ALU `hi` to bus (R169). -/
  | mfhi
  deriving DecidableEq, Repr

/-- The opcode an instruction stands under in R96's table. -/
def Instr.opcode : Instr → Opcode
  | .nop => .nop
  | .ldrp _ => .ldrp
  | .strp _ => .strp
  | .ldr _ => .ldr
  | .str _ => .str
  | .push => .push
  | .add => .add
  | .neg => .neg
  | .mul => .mul
  | .div => .div
  | .jmp => .jmp
  | .jgt _ => .jgt
  | .jlt _ => .jlt
  | .jeq _ => .jeq
  | .grow => .grow
  | .sys _ => .sys
  | .halt => .halt
  | .pause => .pause
  | .lda _ => .lda
  | .sta _ => .sta
  | .ldi _ => .ldi
  | .fmode => .fmode
  | .imode => .imode
  | .mflo => .mflo
  | .mfhi => .mfhi

/-- The operand words that follow the opcode word (R90). -/
def Instr.operands : Instr → List Word
  | .ldrp x | .strp x | .ldr x | .str x | .jgt x | .jlt x | .jeq x | .sys x | .lda x | .sta x | .ldi x => [x]
  | .nop | .push | .add | .neg | .mul | .div | .jmp | .grow | .halt | .pause | .fmode | .imode | .mflo | .mfhi => []

/-- An opcode with a list of operand words, before it is known that the list fits the opcode's format. -/
structure RawInstr where
  opcode : Opcode
  operands : List Word
  deriving DecidableEq, Repr

/-- An instruction as an opcode with its operand words. -/
def Instr.raw (i : Instr) : RawInstr := ⟨i.opcode, i.operands⟩

end Sys2Proof
end

