-- ==== Sys2Proof/WellFormed.lean ====
section
/-! DEFINITION. When an instruction is well formed: its opcode has exactly the operand words its format gives it (R91,
R97). "An operand word is never invalid: all 2^32 values are accepted by every opcode that takes an operand" (R99), so
there is no check on an operand's value. -/

namespace Sys2Proof

/-- `k` of R96: how many operand words the opcode consumes. -/
def Opcode.operandCount : Opcode → Nat
  | .ldrp | .strp | .ldr | .str | .jgt | .jlt | .jeq | .sys | .lda | .sta | .ldi => 1
  | .nop | .push | .add | .neg | .mul | .div | .jmp | .grow | .halt | .pause | .fmode | .imode | .mflo | .mfhi => 0

/-- The one check: as many operand words as the opcode's format has. -/
def RawInstr.wellFormed (r : RawInstr) : Bool := r.operands.length == r.opcode.operandCount

/-- An instruction is well formed when its opcode and operand words are. -/
def Instr.wellFormed (i : Instr) : Bool := i.raw.wellFormed

end Sys2Proof
end

