-- ==== Sys2Proof/Decode.lean ====
section
/-! DEFINITION. The decoder and the encoder of R90 to R101, from the one opcode map of R96. -/

namespace Sys2Proof

/-- `OPCODE_MAP` of R7 at its default: the numbers 0 to 24 that R96 assigns (decision D1). Both the decoder and the
encoder read opcode numbers from here only. -/
def opcodeMap : Opcode → Word
  | .nop => 0
  | .ldrp => 1
  | .strp => 2
  | .ldr => 3
  | .str => 4
  | .push => 5
  | .add => 6
  | .neg => 7
  | .mul => 8
  | .div => 9
  | .jmp => 10
  | .jgt => 11
  | .jlt => 12
  | .jeq => 13
  | .grow => 14
  | .sys => 15
  | .halt => 16
  | .pause => 17
  | .lda => 18
  | .sta => 19
  | .ldi => 20
  | .fmode => 21
  | .imode => 22
  | .mflo => 23
  | .mfhi => 24

/-- The 25 opcodes in the order of R96. -/
def allOpcodes : List Opcode :=
  [.nop, .ldrp, .strp, .ldr, .str, .push, .add, .neg, .mul, .div, .jmp, .jgt, .jlt, .jeq, .grow, .sys, .halt, .pause,
   .lda, .sta, .ldi, .fmode, .imode, .mflo, .mfhi]

/-- The opcode whose number is the whole 32-bit word (R92: all 32 bits are compared). -/
def opcodeOfWord (w : Word) : Option Opcode := allOpcodes.find? fun o => opcodeMap o == w

/-- Why a list of words is no instruction. -/
inductive DecodeError where
  /-- The opcode word is not one of the 25 numbers (R98): the machine takes `InvalidInstruction`. -/
  | invalidOpcode (w : Word)
  /-- The list is empty: there is no opcode word. The machine's fetch always has one (R100). -/
  | noOpcodeWord
  /-- The list ends before the operand word. The machine's fetch always has one (R66). -/
  | noOperandWord (o : Opcode)
  deriving DecidableEq, Repr

/-- What the decoder answers: an instruction with the words after it, or a reason by name. -/
inductive Decoded where
  | ok (i : Instr) (rest : List Word)
  | error (e : DecodeError)
  deriving DecidableEq, Repr

/-- Takes the one operand word of format O (R91), used unmodified (R101). -/
def withOperand (o : Opcode) (mk : Word → Instr) : List Word → Decoded
  | [] => .error (.noOperandWord o)
  | x :: rest => .ok (mk x) rest

/-- The rest of an instruction whose opcode is known: format Z takes no word, format O takes one (R91, R96). -/
def decodeOperands (ws : List Word) : Opcode → Decoded
  | .nop => .ok .nop ws
  | .ldrp => withOperand .ldrp .ldrp ws
  | .strp => withOperand .strp .strp ws
  | .ldr => withOperand .ldr .ldr ws
  | .str => withOperand .str .str ws
  | .push => .ok .push ws
  | .add => .ok .add ws
  | .neg => .ok .neg ws
  | .mul => .ok .mul ws
  | .div => .ok .div ws
  | .jmp => .ok .jmp ws
  | .jgt => withOperand .jgt .jgt ws
  | .jlt => withOperand .jlt .jlt ws
  | .jeq => withOperand .jeq .jeq ws
  | .grow => .ok .grow ws
  | .sys => withOperand .sys .sys ws
  | .halt => .ok .halt ws
  | .pause => .ok .pause ws
  | .lda => withOperand .lda .lda ws
  | .sta => withOperand .sta .sta ws
  | .ldi => withOperand .ldi .ldi ws
  | .fmode => .ok .fmode ws
  | .imode => .ok .imode ws
  | .mflo => .ok .mflo ws
  | .mfhi => .ok .mfhi ws

/-- The decoder: total on any list of words, the first at the lowest address (R90, R100). -/
def decode : List Word → Decoded
  | [] => .error .noOpcodeWord
  | w :: ws =>
    match opcodeOfWord w with
    | none => .error (.invalidOpcode w)
    | some o => decodeOperands ws o

/-- The encoder: the opcode word, then the operand words (R90, R91). -/
def encode (i : Instr) : List Word := opcodeMap i.opcode :: i.operands

/-- The cells that hold the bits of `w`, of which `nbits` are given and the rest are 0: the longest instruction has two
(R90), the first word being the low 32 bits. A cell is the least unit of memory, so there is no byte order (R70). -/
def wordsOfBits (nbits w : Nat) : List Word :=
  let v := w % 2 ^ nbits
  [BitVec.ofNat 32 v, BitVec.ofNat 32 (v / 2 ^ 32)]

/-- The instruction the decoder reads from an opcode-table word. -/
def decodeTableWord (nbits w : Nat) : Option Instr :=
  match decode (wordsOfBits nbits w) with
  | .ok i _ => some i
  | .error _ => none

end Sys2Proof
end

