-- ==== Sys2Proof/Machine/Float.lean ====
section
/-! DEFINITION. Floating point (R11, R174 to R179): the readings of binary32 and binary64 patterns, rounding to nearest with
ties to even, and the three arithmetic operations. Magnitudes are natural numbers that count the format's least
subnormal (2^-149 or 2^-1074), so every finite datum is exact. -/

namespace Sys2Proof.Machine

/-- What a pattern denotes: a NaN, an infinity, or a sign with a magnitude in units of the format's least subnormal. -/
inductive Datum where
  | nan
  | inf (neg : Bool)
  | finite (neg : Bool) (mag : Nat)
  deriving DecidableEq, Repr

/-- The integer a sign and a magnitude stand for. -/
def signedMag (neg : Bool) (mag : Nat) : Int := if neg then -(mag : Int) else mag

/-- The integer a finite datum stands for, in units of the least subnormal; none for a NaN or an infinity. -/
def Datum.toInt? : Datum → Option Int
  | .finite neg mag => some (signedMag neg mag)
  | .nan => none
  | .inf _ => none

/-- The datum of a sign, a biased exponent and a fraction: exponent 0 is zero or subnormal, the exponent of all ones is
infinity or NaN (R174). -/
def datumOfFields (fracBits expOnes : Nat) (neg : Bool) (e f : Nat) : Datum :=
  if e = expOnes then (if f = 0 then .inf neg else .nan)
  else if e = 0 then .finite neg f
  else .finite neg ((2 ^ fracBits + f) * 2 ^ (e - 1))

/-- `F32(v)`: sign bit 31, exponent bits 30:23, fraction bits 22:0; units of 2^-149 (R174). -/
def f32 (v : Word) : Datum :=
  datumOfFields 23 255 (v.getLsbD 31) (v.extractLsb' 23 8).toNat (v.extractLsb' 0 23).toNat

/-- The reading of a binary64 pattern: sign bit 63, exponent bits 62:52, fraction bits 51:0; units of 2^-1074 (R174). -/
def f64 (v : BitVec 64) : Datum :=
  datumOfFields 52 2047 (v.getLsbD 63) (v.extractLsb' 52 11).toNat (v.extractLsb' 0 52).toNat

/-- `QNAN32` (R11). -/
def qnan32 : Word := 0x7FC00000

/-- `QNAN64` (R11). -/
def qnan64 : BitVec 64 := 0x7FF8000000000000

/-- The exponent and fraction bits of the binary32 infinities. -/
def infMag32 : Nat := 0x7F800000

/-- The exponent and fraction bits of the binary64 infinities. -/
def infMag64 : Nat := 0x7FF0000000000000

/-- A binary32 pattern from its sign and its low 31 bits. -/
def pack32 (neg : Bool) (mag : Nat) : Word := BitVec.ofNat 32 ((if neg then 2 ^ 31 else 0) + mag)

/-- A binary64 pattern from its sign and its low 63 bits. -/
def pack64 (neg : Bool) (mag : Nat) : BitVec 64 := BitVec.ofNat 64 ((if neg then 2 ^ 63 else 0) + mag)

/-- `num / den` rounded to an integer, to nearest, ties to even. -/
def divNearestEven (num den : Nat) : Nat :=
  let q := num / den
  let r := num % den
  if 2 * r < den then q
  else if den < 2 * r then q + 1
  else if q % 2 = 0 then q else q + 1

/-- How many binary places the quantum of `num / den` lies above the least subnormal, in a format of `fracBits` fraction
bits. -/
def quantumShift (fracBits num den : Nat) : Nat := Nat.log2 (num / den) - fracBits

/-- The exponent and fraction bits of the positive rational `num / den` (in units of the least subnormal) rounded to
nearest, ties to even, gradual underflow, overflow to infinity (R11's RNE). A significand that rounds up to the next
binade carries into the exponent field. -/
def roundMag (fracBits infMag num den : Nat) : Nat :=
  let shift := quantumShift fracBits num den
  let bits := shift * 2 ^ fracBits + divNearestEven num (den * 2 ^ shift)
  if infMag ≤ bits then infMag else bits

/-- `bits32(RNE32(x))` for `x` of the sign `neg` and magnitude `num / den` units of 2^-149. -/
def round32 (neg : Bool) (num den : Nat) : Word := pack32 neg (roundMag 23 infMag32 num den)

/-- `bits64(RNE64(x))` for `x` of the sign `neg` and magnitude `num / den` units of 2^-1074. -/
def round64 (neg : Bool) (num den : Nat) : BitVec 64 := pack64 neg (roundMag 52 infMag64 num den)

/-- `FAdd32(A, B)` of R175: one rounding of the exact sum. -/
def fAdd32 (a b : Word) : Word :=
  match f32 a, f32 b with
  | .nan, _ => qnan32
  | _, .nan => qnan32
  | .inf n, .inf m => if n = m then pack32 n infMag32 else qnan32
  | .inf n, .finite _ _ => pack32 n infMag32
  | .finite _ _, .inf m => pack32 m infMag32
  | .finite n x, .finite m y =>
    if x = 0 ∧ y = 0 then pack32 (n && m) 0
    else
      let sum := signedMag n x + signedMag m y
      if sum = 0 then pack32 false 0 else round32 (decide (sum < 0)) sum.natAbs 1

/-- `FMul64(A, B)` of R177: a product of units of 2^-149 counts units of 2^-298, and 2^-298 = 2^776 * 2^-1074. -/
def fMul64 (a b : Word) : BitVec 64 :=
  match f32 a, f32 b with
  | .nan, _ => qnan64
  | _, .nan => qnan64
  | .inf n, .inf m => pack64 (n ^^ m) infMag64
  | .inf n, .finite m y => if y = 0 then qnan64 else pack64 (n ^^ m) infMag64
  | .finite n x, .inf m => if x = 0 then qnan64 else pack64 (n ^^ m) infMag64
  | .finite n x, .finite m y =>
    if x = 0 ∨ y = 0 then pack64 (n ^^ m) 0 else round64 (n ^^ m) (x * y * 2 ^ 776) 1

/-- `FDiv64(A, B)` of R178, dividend `A`, divisor `B`: one rounding of the exact quotient. -/
def fDiv64 (a b : Word) : BitVec 64 :=
  match f32 a, f32 b with
  | .nan, _ => qnan64
  | _, .nan => qnan64
  | .inf _, .inf _ => qnan64
  | .inf n, .finite m _ => pack64 (n ^^ m) infMag64
  | .finite n _, .inf m => pack64 (n ^^ m) 0
  | .finite n x, .finite m y =>
    if y = 0 then (if x = 0 then qnan64 else pack64 (n ^^ m) infMag64)
    else if x = 0 then pack64 (n ^^ m) 0
    else round64 (n ^^ m) (x * 2 ^ 1074) y

/-- The float negation of R163 and R179: the sign bit flips, whatever the pattern. -/
def fNeg32 (a : Word) : Word := a ^^^ 0x80000000

end Sys2Proof.Machine
end

