-- ==== Sys2Proof/Config.lean ====
section
/-! DEFINITION. The implementation parameters of R7 that are plain values, at the defaults R7 gives them, and the
one free value of the machine: the host's answer to a syscall (R223). The parameter `OPCODE_MAP` is
`Sys2Proof.opcodeMap` (Decode.lean), `CMP_UNORDERED` is `Machine.cmpUnordered` (Machine/Flags.lean), `STATUS_CODE` and
`FAULT_CODE` are `Machine.statusCode` and `Machine.faultCode` (Machine/HostPort.lean). -/

namespace Sys2Proof.Config

/-- `REGION_SIZE` of R7: cells in one region (R62). -/
def regionSize : Nat := 2048

/-- `MAX_REGIONS` of R7: the regions that fit the 32-bit address space (decision D18). -/
def maxRegions : Nat := 2097152

/-- `ENTRY_IP` of R7: `ip` after reset (R24, decision D19). -/
def entryIp : Word := 0

/-- `BP_ENABLED_RESET` of R7: breakpoints are enabled after reset (R44, decision D19). -/
def bpEnabledReset : Bool := true

/-- FREE VALUE (notes/assumptions/2.md). The host's answer to a syscall: any of the 2^32 words, "possibly differently on
each call with the same arguments" (R223). It is applied to the number of the call (a counter that State holds), the
code and the argument; it has no body, so nothing can be proved of its value. -/
opaque hostAnswer : Nat → Int → Int → Word

end Sys2Proof.Config
end

