-- ==== Sys2Proof/Machine/State.lean ====
section
/-! DEFINITION. The machine's state, as plain data: every element of R20's list, and the model's own fields for the three
ports of R14 (what the host is going to ask, what it has been answered). Reset is R50. -/

namespace Sys2Proof.Machine

/-- `status`: "exactly one of five values" (R37). -/
inductive Status where
  | empty | notStarted | running | paused | halted
  deriving DecidableEq, Repr

/-- `mode`: the ALU reads its operands as integers or as binary32 data (R28). -/
inductive Mode where
  | int | float
  deriving DecidableEq, Repr

/-- `cmp`: the signed tri-state of R31; the constructors are -1, 0 and +1. -/
inductive CmpResult where
  | less | equal | greater
  deriving DecidableEq, Repr

/-- The values of the `fault` register (R41). `none`: no fault since reset. -/
inductive FaultCause where
  | none | invalidInstruction | divideByZero | regionFault
  deriving DecidableEq, Repr

/-- Storage cells by address, sparse (R46): a list of (address, word) pairs with rising addresses and no zero word. The
least addressable unit is the 32-bit cell and no byte order exists (R61, R70), so a pair holds a cell. -/
abbrev Memory := List (Nat × Word)

/-- What the host can ask on the host command port and the host memory port (R14). -/
inductive HostRequest where
  /-- `initialize()` (R242). -/
  | initMachine
  /-- `set_breakpoint(addr)` (R243). -/
  | setBreakpoint (addr : Word)
  /-- `remove_breakpoint(addr)` (R244). -/
  | removeBreakpoint (addr : Word)
  /-- `enable_breakpoints()` (R245). -/
  | enableBreakpoints
  /-- `disable_breakpoints()` (R246). -/
  | disableBreakpoints
  /-- `continue_()` (R251). -/
  | continueRun
  /-- `step_over()` (R252 to R254). -/
  | stepOver
  /-- `get_instruction_pointer()` (R257). -/
  | getInstructionPointer
  /-- `get_status()` (R258). -/
  | getStatus
  /-- `get_region_size()` (R259). -/
  | getRegionSize
  /-- `get_fault()` (R260). -/
  | getFault
  /-- `HostRead(addr)` on the memory port (R262). -/
  | hostRead (addr : Word)
  /-- `HostWrite(addr, v)` on the memory port (R262). -/
  | hostWrite (addr value : Word)
  deriving DecidableEq, Repr

/-- What a port answers the host. -/
inductive HostResponse where
  /-- `get_instruction_pointer() -> u32` (R257). -/
  | instructionPointer (ip : Word)
  /-- `get_status()`: the code of the status (R258, R38). -/
  | statusCode (code : Word)
  /-- `get_region_size() -> u32` (R259). -/
  | regionSize (size : Word)
  /-- `get_fault() -> (code, fault_ip, fault_info)` (R260). -/
  | faultRegisters (code ip info : Word)
  /-- The word a memory-port read returns (R262). -/
  | cell (value : Word)
  /-- The request has no effect: an unallocated cell (R262(a)), or a state-changing request made while a command
  executes (R241, decision D28). -/
  | refused
  deriving DecidableEq, Repr

/-- What has passed over the ports towards the host. -/
inductive PortEvent where
  /-- The Processor issued `syscall(code, arg)` (R223). -/
  | syscall (code arg : Int)
  /-- A port answered a request of the host. -/
  | response (request : HostRequest) (answer : HostResponse)
  deriving DecidableEq, Repr

/-- How the host is going to handle one syscall: what it asks while the syscall is outstanding (R223(b), (c)), and
whether it ever answers (R223(a)). The answer's value is no part of this: it is free (`Config.hostAnswer`). -/
structure SyscallTurn where
  requests : List HostRequest
  answered : Bool
  deriving DecidableEq, Repr

/-- The state of the machine between two steps or host commands. The first 17 fields are R20's list, "the complete
architectural state"; the last four are the model's own, for the host at the ports. -/
structure State where
  /-- `bus`, the transfer register (R21). -/
  bus : Word
  /-- `ip`, the word address of the next opcode word (R23). -/
  ip : Word
  /-- `status` (R37). -/
  status : Status
  /-- `fault`: the cause of the latest fault (R40). -/
  fault : FaultCause
  /-- `fault_ip`: `ip0` of the faulting instruction (R40). -/
  faultIp : Word
  /-- `fault_info` (R42). -/
  faultInfo : Word
  /-- `mode` (R28). -/
  mode : Mode
  /-- `A`, the most recently pushed operand (R29). -/
  latchA : Word
  /-- `B`, the one pushed before it (R29). -/
  latchB : Word
  /-- `hi` (R30). -/
  hi : Word
  /-- `lo` (R30). -/
  lo : Word
  /-- `cmp` (R31). -/
  cmp : CmpResult
  /-- `region_count` (R45): a count, 0 to MAX_REGIONS. -/
  regionCount : Nat
  /-- The storage cells (R46). -/
  mem : Memory
  /-- `bp_set` (R43): a finite set of addresses, as a strictly rising list. -/
  bpSet : List Word
  /-- `bp_enabled` (R44). -/
  bpEnabled : Bool
  /-- The model's own: the requests the host is going to make between commands, in order (R13, R49, R240). -/
  hostQueue : List HostRequest
  /-- The model's own: how the host is going to handle the coming syscalls, in order (R223). -/
  syscallQueue : List SyscallTurn
  /-- The model's own: the syscalls answered so far, the index of the next free value (R223). -/
  syscallCount : Nat
  /-- The model's own: what has passed over the ports towards the host, the oldest first (R14). -/
  portLog : List PortEvent
  deriving DecidableEq, Repr

/-- Why a step has no next state. The spec's own three faults are no such reason: they leave a next state, with the
fault registers written (R284). -/
inductive Fault where
  /-- Raised by `SYS` alone, where the host never answers the syscall: "the step never completes; no state changes"
  (spec/93 U13, R223(a)). Safe: the machine is stuck, and so is the model. -/
  | syscallUnanswered
  deriving DecidableEq, Repr

/-- Why the model gives an instruction no meaning. -/
inductive Refusal where
  /-- Raised by `exec` for an instruction that has no meaning in the model yet; no arm does so now. Safe. -/
  | notModelled (mnemonic : String)
  deriving DecidableEq, Repr

/-- Power-on reset (R50, R320): every element at R50's value; no host request is waiting and nothing has passed over the
ports (the model's own fields: notes/assumptions/3.md). -/
def State.reset : State where
  bus := 0
  ip := Config.entryIp
  status := .empty
  fault := .none
  faultIp := 0
  faultInfo := 0
  mode := .int
  latchA := 0
  latchB := 0
  hi := 0
  lo := 0
  cmp := .equal
  regionCount := 0
  mem := []
  bpSet := []
  bpEnabled := Config.bpEnabledReset
  hostQueue := []
  syscallQueue := []
  syscallCount := 0
  portLog := []

end Sys2Proof.Machine
end

