-- ==== Sys2Proof/Machine/Ops.lean ====
section
/-! DEFINITION. The named operations every meaning is built from: memory cells, allocation, the register updates, taking a
fault (R284), the end of a step (R124), and the breakpoint set. There is no return from a fault: "no return-from-trap
instruction and no handler to return from" (R291). -/

namespace Sys2Proof.Machine

/-! ### Cells -/

/-- The word at an address; an unlisted address reads as 0, since every region is created zeroed (R65, R51). -/
def Memory.read : Memory → Nat → Word
  | [], _ => 0
  | (b, w) :: rest, a => if a = b then w else Memory.read rest a

/-- Puts a pair where its address belongs in the rising order. -/
def Memory.insert (a : Nat) (v : Word) : Memory → Memory
  | [] => [(a, v)]
  | (b, w) :: rest => if a < b then (a, v) :: (b, w) :: rest else (b, w) :: Memory.insert a v rest

/-- The memory with the cell at `a` holding `v`; a cell that holds 0 is not listed. -/
def Memory.write (m : Memory) (a : Nat) (v : Word) : Memory :=
  let others := m.filter fun c => c.1 ≠ a
  if v = 0 then others else Memory.insert a v others

/-- The memory with every cell of `[lo, hi)` holding 0. -/
def Memory.clear (m : Memory) (lo hi : Nat) : Memory := m.filter fun c => c.1 < lo ∨ hi ≤ c.1

/-- The canonical form: addresses strictly rising, no cell that holds what an unlisted address reads as. -/
def Memory.wf : Memory → Bool
  | [] => true
  | [(_, v)] => v != 0
  | (a, v) :: (b, w) :: rest => v != 0 && decide (a < b) && Memory.wf ((b, w) :: rest)

/-! ### Allocation and access -/

/-- R63: the region of the address is one of the regions that exist. -/
def State.allocated (s : State) (addr : Word) : Bool := decide (addr.toNat / Config.regionSize < s.regionCount)

/-- `MemRead(addr, 1)` of R66: the cell, or 0 where the address is unallocated. -/
def State.memRead (s : State) (addr : Word) : Word := if s.allocated addr then Memory.read s.mem addr.toNat else 0

/-- The write of one allocated cell (R67). -/
def State.setCell (s : State) (addr v : Word) : State := { s with mem := Memory.write s.mem addr.toNat v }

/-- One more region, its cells 0, the others untouched (R65). -/
def State.addRegion (s : State) : State :=
  { s with
    regionCount := s.regionCount + 1
    mem := Memory.clear s.mem (s.regionCount * Config.regionSize) ((s.regionCount + 1) * Config.regionSize) }

/-! ### Register updates -/

/-- `bus <- v`. -/
def State.setBus (s : State) (v : Word) : State := { s with bus := v }

/-- `ip <- v`. -/
def State.setIp (s : State) (v : Word) : State := { s with ip := v }

/-- `status <- v`. -/
def State.setStatus (s : State) (v : Status) : State := { s with status := v }

/-- `mode <- v`. -/
def State.setMode (s : State) (v : Mode) : State := { s with mode := v }

/-- `cmp <- v`. -/
def State.setCmp (s : State) (v : CmpResult) : State := { s with cmp := v }

/-- `hi <- h ; lo <- l`. -/
def State.setHiLo (s : State) (h l : Word) : State := { s with hi := h, lo := l }

/-- `hi <- P[63:32] ; lo <- P[31:0]` (R164, R165). -/
def State.setHiLo64 (s : State) (p : BitVec 64) : State := s.setHiLo (p.extractLsb' 32 32) (p.extractLsb' 0 32)

/-- `B <- A ; A <- v` (R161). -/
def State.pushLatch (s : State) (v : Word) : State := { s with latchB := s.latchA, latchA := v }

/-! ### The end of a step and taking a fault -/

/-- The end-of-step advance of R124, by the `k` operand words consumed and one. -/
def State.advance (s : State) (k : Nat) : State := s.setIp (w32 (unsigned s.ip + k + 1))

/-- `raise F(info)` of R284, in the state the step began with, so that `ip` is `ip0`: the three fault registers and
`status` are written and nothing else changes (R128). -/
def State.raise (s : State) (cause : FaultCause) (info : Word) : State :=
  { s with status := .halted, fault := cause, faultIp := s.ip, faultInfo := info }

/-- `MemWrite(addr, 1, v)` at the end of a store, then the advance over opcode and operand: the fault of R282 comes before
any write. -/
def State.store (s : State) (addr v : Word) : State :=
  if s.allocated addr then (s.setCell addr v).advance 1 else s.raise .regionFault addr

/-! ### The breakpoint set -/

/-- Puts an address where it belongs in the rising order. -/
def bpInsertSorted (a : Word) : List Word → List Word
  | [] => [a]
  | b :: rest => if a.toNat < b.toNat then a :: b :: rest else b :: bpInsertSorted a rest

/-- `bp_set \ {a}` (R244). -/
def bpRemove (a : Word) (bs : List Word) : List Word := bs.filter fun b => b ≠ a

/-- `bp_set ∪ {a}` (R243). -/
def bpInsert (a : Word) (bs : List Word) : List Word := bpInsertSorted a (bpRemove a bs)

/-- The canonical form of a finite set of addresses: strictly rising. -/
def bpSorted : List Word → Bool
  | [] => true
  | [_] => true
  | a :: b :: rest => decide (a.toNat < b.toNat) && bpSorted (b :: rest)

/-- `bp_set <- bs`. -/
def State.setBpSet (s : State) (bs : List Word) : State := { s with bpSet := bs }

/-- `bp_enabled <- b`. -/
def State.setBpEnabled (s : State) (b : Bool) : State := { s with bpEnabled := b }

/-! ### The ports -/

/-- An event passes over a port towards the host. -/
def State.emit (s : State) (e : PortEvent) : State := { s with portLog := s.portLog ++ [e] }

end Sys2Proof.Machine
end

