-- ==== Sys2Proof/Machine/Alu.lean ====
section
/-! DEFINITION. The ALU instructions (R160 to R179). Integer results are computed exactly and wrapped (R170 to R173); float
results are those of Machine/Float.lean. -/

namespace Sys2Proof.Machine

/-- The result of `ADD` in each mode (R162, R170, R175). -/
def aluSum (m : Mode) (a b : Word) : Word :=
  match m with
  | .int => w32 (signed a + signed b)
  | .float => fAdd32 a b

/-- The result of `NEG` in each mode (R163, R170, R179). -/
def aluNegation (m : Mode) (a : Word) : Word :=
  match m with
  | .int => w32 (0 - signed a)
  | .float => fNeg32 a

/-- The 64-bit result of `MUL` in each mode (R164, R171, R177). -/
def aluProduct (m : Mode) (a b : Word) : BitVec 64 :=
  match m with
  | .int => BitVec.ofInt 64 (signed a * signed b)
  | .float => fMul64 a b

/-- The integer quotient, rounded toward zero and wrapped (R172, R173). -/
def intQuotient (a b : Word) : Word := w32 (Int.tdiv (signed a) (signed b))

/-- `PUSH` (R161): the same in both modes. -/
def execPush (s : State) : Host.Outcome State Fault Refusal := .next ((s.pushLatch s.bus).advance 0)

/-- `ADD` (R162). -/
def execAdd (s : State) : Host.Outcome State Fault Refusal :=
  .next ((s.setHiLo (aluSum s.mode s.latchA s.latchB) 0).advance 0)

/-- `NEG` (R163). -/
def execNeg (s : State) : Host.Outcome State Fault Refusal :=
  .next ((s.setHiLo (aluNegation s.mode s.latchA) 0).advance 0)

/-- `MUL` (R164). -/
def execMul (s : State) : Host.Outcome State Fault Refusal :=
  .next ((s.setHiLo64 (aluProduct s.mode s.latchA s.latchB)).advance 0)

/-- `DIV` (R165), dividend `A`, divisor `B`: only the integer division by zero faults (R281). -/
def execDiv (s : State) : Host.Outcome State Fault Refusal :=
  match s.mode with
  | .int =>
    if signed s.latchB = 0 then .next (s.raise .divideByZero 0)
    else .next ((s.setHiLo (intQuotient s.latchA s.latchB) 0).advance 0)
  | .float => .next ((s.setHiLo64 (fDiv64 s.latchA s.latchB)).advance 0)

/-- `FMODE` (R166): the latches keep their bits. -/
def execFmode (s : State) : Host.Outcome State Fault Refusal := .next ((s.setMode .float).advance 0)

/-- `IMODE` (R167): the latches keep their bits. -/
def execImode (s : State) : Host.Outcome State Fault Refusal := .next ((s.setMode .int).advance 0)

/-- `MFLO` (R168). -/
def execMflo (s : State) : Host.Outcome State Fault Refusal := .next ((s.setBus s.lo).advance 0)

/-- `MFHI` (R169). -/
def execMfhi (s : State) : Host.Outcome State Fault Refusal := .next ((s.setBus s.hi).advance 0)

end Sys2Proof.Machine
end

