-- ==== Sys2Proof/Machine/Flags.lean ====
section
/-! DEFINITION. The ALU comparison (R180, R181), whose outcome is the only condition flag (R31). There are no other flags
(R32). -/

namespace Sys2Proof.Machine

/-- `CMP_UNORDERED` of R7 at its default 0: the outcome when a float operand is a NaN (R181, decision D8). -/
def cmpUnordered : CmpResult := .equal

/-- The sign of `x` against `y`. -/
def compareInts (x y : Int) : CmpResult := if y < x then .greater else if x < y then .less else .equal

/-- The order of binary32 data: a NaN is unordered, an infinity lies beyond every finite datum, and the zeros are equal
(R180, R181). -/
def compareData : Datum → Datum → CmpResult
  | .nan, _ => cmpUnordered
  | _, .nan => cmpUnordered
  | .inf n, .inf m => compareInts (signedMag n 1) (signedMag m 1)
  | .inf n, .finite _ _ => if n then .less else .greater
  | .finite _ _, .inf m => if m then .greater else .less
  | .finite n x, .finite m y => compareInts (signedMag n x) (signedMag m y)

/-- `Compare()` of R180: `A` against `B` in the current mode. -/
def State.compare (s : State) : CmpResult :=
  match s.mode with
  | .int => compareInts (signed s.latchA) (signed s.latchB)
  | .float => compareData (f32 s.latchA) (f32 s.latchB)

/-- The number a comparison outcome stands for in R31: -1, 0 or +1. -/
def CmpResult.toInt : CmpResult → Int
  | .less => -1
  | .equal => 0
  | .greater => 1

end Sys2Proof.Machine
end

