-- ==== Sys2Proof/Machine/Operands.lean ====
section
/-! DEFINITION. The three addressing modes (R125 to R127): functions from the operand word to an effective address, all
computed from the address of the instruction's own opcode word. There is no fourth mode (R132). -/

namespace Sys2Proof.Machine

/-- `EA_abs(operand)`: "operand is the literal target address" (R125). -/
def eaAbs (operand : Word) : Word := operand

/-- `EA_rel(operand) = w32(ip0 + s(operand))` (R126), also the target of a jump before any advance (R201 to R204). -/
def eaRel (ip0 operand : Word) : Word := w32 (unsigned ip0 + signed operand)

/-- `EA_relptr(operand)` (R127): the pointer cell's value is again an offset from `ip0`. -/
def eaRelPtr (s : State) (operand : Word) : Word := eaRel s.ip (s.memRead (eaRel s.ip operand))

end Sys2Proof.Machine
end

