-- ==== Sys2Proof/Machine/ControlTransfer.lean ====
section
/-! DEFINITION. The control-transfer instructions (R200 to R207). `JMP` suppresses the end-of-step advance; a conditional
jump does not, so a taken one lands two cells past `ip0 + s(off)` (R124). -/

namespace Sys2Proof.Machine

/-- What the three conditional jumps share (R202 to R204): the comparison is latched in `cmp`, the target is written where
the jump is taken, and the advance over opcode and operand follows in both cases. -/
def State.condJump (s : State) (taken : CmpResult → Bool) (off : Word) : State :=
  let latched := s.setCmp s.compare
  (if taken s.compare then latched.setIp (eaRel s.ip off) else latched).advance 1

/-- `JMP` (R201). -/
def execJmp (s : State) : Host.Outcome State Fault Refusal := .next (s.setIp (eaRel s.ip s.bus))

/-- `JGT off` (R202). -/
def execJgt (off : Word) (s : State) : Host.Outcome State Fault Refusal := .next (s.condJump (· == .greater) off)

/-- `JLT off` (R203). -/
def execJlt (off : Word) (s : State) : Host.Outcome State Fault Refusal := .next (s.condJump (· == .less) off)

/-- `JEQ off` (R204). -/
def execJeq (off : Word) (s : State) : Host.Outcome State Fault Refusal := .next (s.condJump (· == .equal) off)

end Sys2Proof.Machine
end

