-- ==== Sys2Proof/Machine/DataTransfer.lean ====
section
/-! DEFINITION. The data-transfer instructions (R140 to R148). A load writes `bus` and never faults; a store writes one
cell, or takes `RegionFault` where the effective address is unallocated. -/

namespace Sys2Proof.Machine

/-- A load: `bus <- MemRead(ea, 1)`, then the advance over opcode and operand. -/
def State.load (s : State) (ea : Word) : State := (s.setBus (s.memRead ea)).advance 1

/-- `LDRP off` (R141). -/
def execLdrp (off : Word) (s : State) : Host.Outcome State Fault Refusal := .next (s.load (eaRelPtr s off))

/-- `STRP off` (R142). -/
def execStrp (off : Word) (s : State) : Host.Outcome State Fault Refusal := .next (s.store (eaRelPtr s off) s.bus)

/-- `LDR off` (R143). -/
def execLdr (off : Word) (s : State) : Host.Outcome State Fault Refusal := .next (s.load (eaRel s.ip off))

/-- `STR off` (R144). -/
def execStr (off : Word) (s : State) : Host.Outcome State Fault Refusal := .next (s.store (eaRel s.ip off) s.bus)

/-- `LDA addr` (R145). -/
def execLda (addr : Word) (s : State) : Host.Outcome State Fault Refusal := .next (s.load (eaAbs addr))

/-- `STA addr` (R146). -/
def execSta (addr : Word) (s : State) : Host.Outcome State Fault Refusal := .next (s.store (eaAbs addr) s.bus)

/-- `LDI imm` (R147). -/
def execLdi (imm : Word) (s : State) : Host.Outcome State Fault Refusal := .next ((s.setBus imm).advance 1)

end Sys2Proof.Machine
end

