-- ==== Sys2Proof/Machine/HostPort.lean ====
section
/-! DEFINITION. What the ports answer without changing the core's state: the inspection commands (R257 to R260) and the
memory-port read (R262), between commands and from inside a syscall (R223, R241). -/

namespace Sys2Proof.Machine

/-- `STATUS_CODE` of R7 at its default (R38, decision D3). -/
def statusCode : Status → Word
  | .paused => 0
  | .halted => 1
  | .notStarted => 2
  | .running => 3
  | .empty => 4

/-- `FAULT_CODE` of R7 at its default (R41, decision D4). -/
def faultCode : FaultCause → Word
  | .none => 0
  | .invalidInstruction => 1
  | .divideByZero => 2
  | .regionFault => 3

/-- `HostRead(addr)` of R262: an allocated cell's word; an unallocated address is refused. -/
def State.hostReadAnswer (s : State) (addr : Word) : HostResponse :=
  if s.allocated addr then .cell (Memory.read s.mem addr.toNat) else .refused

/-- What a request that changes nothing is answered; no answer where the request is one that changes the state. -/
def State.inspect (s : State) : HostRequest → Option HostResponse
  | .getInstructionPointer => some (.instructionPointer s.ip)
  | .getStatus => some (.statusCode (statusCode s.status))
  | .getRegionSize => some (.regionSize (BitVec.ofNat 32 Config.regionSize))
  | .getFault => some (.faultRegisters (faultCode s.fault) s.faultIp s.faultInfo)
  | .hostRead addr => some (s.hostReadAnswer addr)
  | .initMachine | .setBreakpoint _ | .removeBreakpoint _ | .enableBreakpoints | .disableBreakpoints | .continueRun
  | .stepOver | .hostWrite _ _ => none

/-- A request made from inside a syscall: the host may read but must change nothing (R223(b)), and a state-changing
request is refused, without effect (R241, decision D28). -/
def State.answerInSyscall (s : State) (r : HostRequest) : PortEvent := .response r ((s.inspect r).getD .refused)

/-- How the host handles the coming syscall; with nothing laid down it asks nothing and answers. -/
def State.syscallTurn (s : State) : SyscallTurn := s.syscallQueue.headD ⟨[], true⟩

/-- The exchange on the syscall port (R223): the request, whatever the host asks while it is outstanding (it sees the
state as the previous step left it), and the host's turn is over. -/
def State.syscallExchange (s : State) (code arg : Int) : State :=
  { s with
    portLog := s.portLog ++ .syscall code arg :: s.syscallTurn.requests.map s.answerInSyscall
    syscallQueue := s.syscallQueue.tail
    syscallCount := s.syscallCount + 1 }

end Sys2Proof.Machine
end

