-- ==== Sys2Proof/Machine/System.lean ====
section
/-! DEFINITION. The system instructions (R220 to R226). -/

namespace Sys2Proof.Machine

/-- `NOP` (R221). -/
def execNop (s : State) : Host.Outcome State Fault Refusal := .next (s.advance 0)

/-- `GROW` (R222, R65): one more region, or `RegionFault` where all MAX_REGIONS exist (R283). -/
def execGrow (s : State) : Host.Outcome State Fault Refusal :=
  if Config.maxRegions ≤ s.regionCount then
    .next (s.raise .regionFault (BitVec.ofNat 32 (s.regionCount * Config.regionSize)))
  else .next (s.addRegion.advance 0)

/-- `SYS arg` (R223): the exchange on the syscall port, then `bus` takes the host's answer, a free value. Where the host
never answers, the step never completes (spec/93 U13). -/
def execSys (arg : Word) (s : State) : Host.Outcome State Fault Refusal :=
  if s.syscallTurn.answered then
    .next (((s.syscallExchange (signed s.bus) (signed arg)).setBus
      (Config.hostAnswer s.syscallCount (signed s.bus) (signed arg))).advance 1)
  else .fault .syscallUnanswered

/-- `HALT` (R224): the fault registers are not written. -/
def execHalt (s : State) : Host.Outcome State Fault Refusal := .next ((s.setStatus .halted).advance 0)

/-- `PAUSE` (R225). -/
def execPause (s : State) : Host.Outcome State Fault Refusal := .next ((s.setStatus .paused).advance 0)

end Sys2Proof.Machine
end

