-- ==== Sys2Proof/Machine/Dispatch.lean ====
section
/-! DEFINITION. The dispatch of R123: one arm per instruction. -/

namespace Sys2Proof.Machine

/-- `Execute` with the end of the step (R120, R123): what the instruction does in a state whose `ip` is the address of
its opcode word. -/
def exec (i : Instr) (s : State) : Host.Outcome State Fault Refusal :=
  match i with
  | .nop => Sys2Proof.Machine.execNop s
  | .ldrp off => Sys2Proof.Machine.execLdrp off s
  | .strp off => Sys2Proof.Machine.execStrp off s
  | .ldr off => Sys2Proof.Machine.execLdr off s
  | .str off => Sys2Proof.Machine.execStr off s
  | .push => Sys2Proof.Machine.execPush s
  | .add => Sys2Proof.Machine.execAdd s
  | .neg => Sys2Proof.Machine.execNeg s
  | .mul => Sys2Proof.Machine.execMul s
  | .div => Sys2Proof.Machine.execDiv s
  | .jmp => Sys2Proof.Machine.execJmp s
  | .jgt off => Sys2Proof.Machine.execJgt off s
  | .jlt off => Sys2Proof.Machine.execJlt off s
  | .jeq off => Sys2Proof.Machine.execJeq off s
  | .grow => Sys2Proof.Machine.execGrow s
  | .sys arg => Sys2Proof.Machine.execSys arg s
  | .halt => Sys2Proof.Machine.execHalt s
  | .pause => Sys2Proof.Machine.execPause s
  | .lda addr => Sys2Proof.Machine.execLda addr s
  | .sta addr => Sys2Proof.Machine.execSta addr s
  | .ldi imm => Sys2Proof.Machine.execLdi imm s
  | .fmode => Sys2Proof.Machine.execFmode s
  | .imode => Sys2Proof.Machine.execImode s
  | .mflo => Sys2Proof.Machine.execMflo s
  | .mfhi => Sys2Proof.Machine.execMfhi s

end Sys2Proof.Machine
end

