-- ==== Sys2Proof/Machine/RunControl.lean ====
section
/-! DEFINITION. The Processor's step (R120 to R131) and RunControl (R240 to R266): the guarded step, and the host's commands.
`continue_` sets `Running`; each of the machine's steps then is one guarded step, until `status` is no longer `Running`
(R251), without a bound (R256). -/

namespace Sys2Proof.Machine

/-- The words fetched at `ip`, with `MemRead` (R121, R122): the opcode word and the one that follows it, which only an
instruction of format O takes (R94). A read changes nothing (R72). -/
def State.fetchWords (s : State) : List Word := [s.memRead s.ip, s.memRead (w32 (unsigned s.ip + 1))]

/-- `Step()` of R120: fetch, decode, execute. A word that is no opcode takes `InvalidInstruction` with that word (R280),
before any operand is fetched. -/
def processorStep (s : State) : Host.Outcome State Fault Refusal :=
  match decode s.fetchWords with
  | .ok i _ => exec i s
  | .error _ => .next (s.raise .invalidInstruction (s.memRead s.ip))

/-- An enabled breakpoint stands at `ip` (R247, R250). -/
def State.atBreakpoint (s : State) : Bool := s.bpEnabled && s.bpSet.contains s.ip

/-- `GuardedStep()` of R250: the breakpoint check comes before every step, and a match changes `status` only. -/
def guardedStep (s : State) : Host.Outcome State Fault Refusal :=
  if s.atBreakpoint then .next (s.setStatus .paused) else processorStep s

/-- `initialize()` (R242): acts in `Empty` only. -/
def State.initialised (s : State) : State :=
  match s.status with
  | .empty => { s with regionCount := 1, mem := Memory.clear s.mem 0 Config.regionSize, status := .notStarted }
  | .notStarted | .running | .paused | .halted => s

/-- The start of `continue_()` (R251): no effect in `Halted` and `Empty`. -/
def State.continued (s : State) : State :=
  match s.status with
  | .notStarted | .paused => s.setStatus .running
  | .empty | .running | .halted => s

/-- `step_over()` (R252 to R254): one guarded step in `Paused`; in `NotStarted` too, and `status` is then forced to
`Paused` whatever the step made of it; no effect in any other status. -/
def stepOverCommand (s : State) : Host.Outcome State Fault Refusal :=
  match s.status with
  | .paused => guardedStep s
  | .notStarted =>
    match guardedStep s with
    | .next t => .next (t.setStatus .paused)
    | .fault f => .fault f
    | .refused r => .refused r
  | .empty | .running | .halted => .next s

/-- `HostWrite(addr, v)` of R262: an allocated cell takes the word; an unallocated address is refused. -/
def State.hostWritten (s : State) (addr v : Word) : State :=
  if s.allocated addr then s.setCell addr v else s.emit (.response (.hostWrite addr v) .refused)

/-- The answer of an inspection passes to the host and nothing else changes (R257 to R260, R262). -/
def State.inspected (s : State) (r : HostRequest) : State :=
  match s.inspect r with
  | some answer => s.emit (.response r answer)
  | none => s

/-- One request of the host while no command executes. -/
def hostRequest (r : HostRequest) (s : State) : Host.Outcome State Fault Refusal :=
  match r with
  | .initMachine => .next s.initialised
  | .setBreakpoint addr => .next (s.setBpSet (bpInsert addr s.bpSet))
  | .removeBreakpoint addr => .next (s.setBpSet (bpRemove addr s.bpSet))
  | .enableBreakpoints => .next (s.setBpEnabled true)
  | .disableBreakpoints => .next (s.setBpEnabled false)
  | .continueRun => .next s.continued
  | .stepOver => stepOverCommand s
  | .hostWrite addr v => .next (s.hostWritten addr v)
  | .getInstructionPointer | .getStatus | .getRegionSize | .getFault | .hostRead _ => .next (s.inspected r)

/-- One move of the machine. While `continue_` runs (`status = Running`) it is one guarded step and the host waits
(R241). Otherwise the host's next request is carried out; with none waiting the machine is idle, and nothing changes
(R301). -/
def machineStep (s : State) : Host.Outcome State Fault Refusal :=
  match s.status with
  | .running => guardedStep s
  | .empty | .notStarted | .paused | .halted =>
    match s.hostQueue with
    | [] => .next s
    | r :: rest => hostRequest r { s with hostQueue := rest }

/-- The number of regions that must exist for the two cells at `ip` to be allocated. -/
def State.fetchRegions (s : State) : Nat :=
  max (unsigned s.ip) (unsigned (w32 (unsigned s.ip + 1))) / Config.regionSize + 1

/-- The state with the regions up to `n` in existence, the new ones zeroed (R65). -/
def State.withRegions (s : State) (n : Nat) : State :=
  if s.regionCount < n then
    { s with
      regionCount := n
      mem := Memory.clear s.mem (s.regionCount * Config.regionSize) (n * Config.regionSize) }
  else s

/-- The state with two words at `ip` and at the address after it. -/
def State.withProgram (s : State) : List Word → State
  | [w] => s.setCell s.ip w
  | [w, x] => (s.setCell s.ip w).setCell (w32 (unsigned s.ip + 1)) x
  | _ => s

end Sys2Proof.Machine
end

