-- ==== Sys2Proof/Machine/Step.lean ====
section
/-! DEFINITION. The machine's step, and the placing of an instruction where the next step fetches. -/

namespace Sys2Proof.Machine

/-- One step of the machine: see `machineStep`. -/
def step (s : State) : Host.Outcome State Fault Refusal := machineStep s

/-- `s` with the instruction whose bits are `w` stored at `ip`, and with all that it takes for the very next step to run
it: its cells allocated, `status` `Running` (inside a `continue_`), no breakpoint at `ip`. -/
def State.withFetchWord (s : State) (nbits w : Nat) : State :=
  (((s.withRegions s.fetchRegions).withProgram (wordsOfBits nbits w)).setBpSet (bpRemove s.ip s.bpSet)).setStatus .running

end Sys2Proof.Machine
end

