-- ==== Sys2Proof/Safety.lean ====
section
/-! DEFINITION. The terms claims are made in: the invariant of the machine's states, how a run ends (R264), and what of a
state a program can tell (R300). -/

namespace Sys2Proof.Machine

/-- Every listed cell is allocated (R46: an unallocated address has no cell). -/
abbrev State.cellsAllocated (s : State) : Prop := ∀ c ∈ s.mem, c.1 < s.regionCount * Config.regionSize

/-- What holds of every state the machine reaches: memory and breakpoint set are in canonical form, no unallocated cell
is listed, the regions fit the address space (R45), and there is no region exactly while `status` is `Empty` (R37). -/
abbrev State.Inv (s : State) : Prop :=
  Memory.wf s.mem = true ∧ s.cellsAllocated ∧ s.regionCount ≤ Config.maxRegions ∧ bpSorted s.bpSet = true ∧
    (s.status = .empty ↔ s.regionCount = 0)

/-- The state without what only RunControl and the host see: `status`, the breakpoints, and the ports' traffic. What is
left is what a program computes with (R300). -/
def State.programView (s : State) : State :=
  { s with status := .running, bpSet := [], bpEnabled := true, hostQueue := [], portLog := [] }

/-- `n` steps of a step function, as far as each leaves a next state. -/
def runSteps (f : State → Host.Outcome State Fault Refusal) : Nat → State → Host.Outcome State Fault Refusal
  | 0, s => .next s
  | n + 1, s =>
    match f s with
    | .next t => runSteps f n t
    | .fault e => .fault e
    | .refused r => .refused r

/-- `n` steps of the Processor, whatever `status` and the breakpoints are. -/
def processorRun (n : Nat) (s : State) : Host.Outcome State Fault Refusal := runSteps processorStep n s

/-- `n` steps of the machine: the guarded steps of `continue_`, and the host's requests between commands. -/
def machineRun (n : Nat) (s : State) : Host.Outcome State Fault Refusal := runSteps step n s

/-- The machine's next step runs a step of the Processor: inside `continue_`, or for a `step_over` request where that
command runs one (R130), and no enabled breakpoint stands at `ip` (R250). -/
abbrev State.runsProcessor (s : State) : Prop :=
  (s.bpEnabled = false ∨ s.ip ∉ s.bpSet) ∧
    (s.status = .running ∨
      ((s.status = .paused ∨ s.status = .notStarted) ∧ s.hostQueue.head? = some .stepOver))

/-- The machine's next step records a fault: it runs a step of the Processor, and that step does what `raise` does
(R284). `HALT` is no such step: it advances `ip` (R224). -/
def State.recordsFault (s : State) : Bool :=
  decide s.runsProcessor &&
    match processorStep s with
    | .next t => decide (t.fault ≠ .none ∧ t = s.raise t.fault t.faultInfo)
    | .fault _ => false
    | .refused _ => false

/-- One of the machine's next `n` steps records a fault. -/
def State.recordsFaultWithin (s : State) : Nat → Bool
  | 0 => false
  | n + 1 =>
    s.recordsFault ||
      match step s with
      | .next t => t.recordsFaultWithin n
      | .fault _ => false
      | .refused _ => false

/-- The program that is taken to start in `start` has finished in `t` (R264): a command has returned with `status`
`Halted`, and no fault was recorded since, so that `fault` is "unchanged from before the program started" whatever an
earlier run left there. -/
def State.finished (start t : State) : Prop :=
  start.status ≠ .halted ∧ t.status = .halted ∧
    ∃ n, machineRun n start = .next t ∧ start.recordsFaultWithin n = false

/-- The program that is taken to start in `start` has failed in `t` (R264): a command has returned with `status` `Halted`
and "a new fault recorded" since, even one that writes the values an older fault left (R291; notes/assumptions/12.md). -/
def State.failed (start t : State) : Prop :=
  start.status ≠ .halted ∧ t.status = .halted ∧
    ∃ n, machineRun n start = .next t ∧ start.recordsFaultWithin n = true

/-- The instruction stores the word of `bus` at this address, if it is a store. -/
def State.storeAddress (s : State) : Instr → Option Word
  | .strp off => some (eaRelPtr s off)
  | .str off => some (eaRel s.ip off)
  | .sta addr => some (eaAbs addr)
  | .nop | .ldrp _ | .ldr _ | .push | .add | .neg | .mul | .div | .jmp | .jgt _ | .jlt _ | .jeq _ | .grow | .sys _
  | .halt | .pause | .lda _ | .ldi _ | .fmode | .imode | .mflo | .mfhi => none

end Sys2Proof.Machine
end

