-- ==== Sys2Proof/Certificates/Slice0/Obligations.lean ====
section
/-! DEFINITION. The statements for the provers, one definition each; OBLIGATIONS.json lists them. Where a statement rests on
a point the spec marks as its own decision (spec/92) or as derived, its text says so. -/

open Sys2Proof Sys2Proof.Machine

/-- For every well-formed instruction of all 25, with every operand word at every value, and whatever words follow it: the
decoder reads from the encoder's words that instruction and leaves the words that follow. The opcode numbers are the
spec's decision D1. [30_encoding.md sections 1 to 3] -/
def Obligations.DecodeReadsBackEncode : Prop :=
  ∀ (i : Instr) (rest : List Word), i.wellFormed = true → decode (encode i ++ rest) = .ok i rest

/-- If the decoder reads an instruction from a list of words and leaves some words, then the list is the encoder's words
of that instruction followed by the words left: no bit of the opcode word or the operand word is ignored.
[30_encoding.md sections 1 to 4] -/
def Obligations.DecodedWordsAreTheEncoding : Prop :=
  ∀ (ws : List Word) (i : Instr) (rest : List Word), decode ws = .ok i rest → ws = encode i ++ rest

/-- With two words fetched: an opcode word whose unsigned value is 25 or more is refused by name as that invalid opcode,
and a smaller one decodes to an instruction whose opcode word it is. Where ip is unallocated the fetched words decode
to NOP. (The spec marks this rule as derived, and the numbers as its decision D1.) [30_encoding.md section 4,
20_memory.md section 5] -/
def Obligations.DecodingIsTotal : Prop :=
  (∀ (w x : Word) (rest : List Word),
    (25 ≤ w.toNat → decode (w :: x :: rest) = .error (.invalidOpcode w)) ∧
    (w.toNat < 25 → ∃ i left, decode (w :: x :: rest) = .ok i left ∧ (encode i).head? = some w)) ∧
  ∀ s : State, s.allocated s.ip = false → ∃ left, decode [s.memRead s.ip, s.memRead (s.ip + 1)] = .ok .nop left

/-- LDR with offset -2, DIV, JGT with offset -28, SYS with argument 42, and LDA 2047, each written out as words from the
table of the spec, decode to those instructions; the word 0x00000100 is invalid, since all 32 bits are compared.
[30_encoding.md section 2] -/
def Obligations.WrittenWordsDecode : Prop :=
  decode [0x00000003, 0xFFFFFFFE] = .ok (.ldr 0xFFFFFFFE) [] ∧
  decode [0x00000009, 0x00000007] = .ok .div [0x00000007] ∧
  decode [0x0000000B, 0xFFFFFFE4] = .ok (.jgt 0xFFFFFFE4) [] ∧
  decode [0x0000000F, 0x0000002A] = .ok (.sys 0x0000002A) [] ∧
  decode [0x00000012, 0x000007FF] = .ok (.lda 0x000007FF) [] ∧
  decode [0x00000100, 0x00000000] = .error (.invalidOpcode 0x00000100)

/-- Where the words at ip and at ip + 1 decode to a well-formed instruction and no enabled breakpoint stands at ip: inside
continue_ (status Running) step is exec of it at the same state; for a step_over request in Paused it is exec at the
state with the request taken; for a step_over request in NotStarted it is that with status forced to Paused.
[40_step_cycle.md section 1, 45_run_control.md section 3] -/
def Obligations.StepRunsTheDecodedInstruction : Prop :=
  ∀ (s : State) (i : Instr) (left : List Word) (queue : List HostRequest),
    decode [s.memRead s.ip, s.memRead (s.ip + 1)] = .ok i left → i.wellFormed = true →
    (s.bpEnabled = false ∨ s.ip ∉ s.bpSet) →
    (s.status = .running → step s = exec i s) ∧
    (s.status = .paused → s.hostQueue = .stepOver :: queue → step s = exec i { s with hostQueue := queue }) ∧
    (s.status = .notStarted → s.hostQueue = .stepOver :: queue →
      ∀ t, exec i { s with hostQueue := queue } = .next t → step s = .next { t with status := .paused })

/-- With no enabled breakpoint at ip and the word at ip 25 or more, the Processor's step, in any status, writes fault =
InvalidInstruction, fault_ip = ip, fault_info = the word and status = Halted, and every other element, ip included, is
as before; so whatever the word after it is, it has no effect. Inside continue_ the machine's step does just that; for
a step_over request in Paused it does that and takes the request; for one in NotStarted the fault registers are
written in the same way and status is then forced to Paused. [R280, R98] -/
def Obligations.InvalidWordTakesInvalidInstruction : Prop :=
  ∀ (s : State) (queue : List HostRequest), (s.bpEnabled = false ∨ s.ip ∉ s.bpSet) → 25 ≤ (s.memRead s.ip).toNat →
    processorStep s = .next { s with status := .halted, fault := .invalidInstruction, faultIp := s.ip,
                                     faultInfo := s.memRead s.ip } ∧
    (s.status = .running →
      step s = .next { s with status := .halted, fault := .invalidInstruction, faultIp := s.ip,
                              faultInfo := s.memRead s.ip }) ∧
    (s.status = .paused → s.hostQueue = .stepOver :: queue →
      step s = .next { s with status := .halted, fault := .invalidInstruction, faultIp := s.ip,
                              faultInfo := s.memRead s.ip, hostQueue := queue }) ∧
    (s.status = .notStarted → s.hostQueue = .stepOver :: queue →
      step s = .next { s with status := .paused, fault := .invalidInstruction, faultIp := s.ip,
                              faultInfo := s.memRead s.ip, hostQueue := queue })

/-- While running with no breakpoint at ip, if ip is unallocated the step advances ip by one modulo 2^32 and changes
nothing else (the spec marks this as derived). [20_memory.md section 5, 30_encoding.md section 4] -/
def Obligations.FetchFromUnallocatedMemoryIsNop : Prop :=
  ∀ s : State, s.status = .running → (s.bpEnabled = false ∨ s.ip ∉ s.bpSet) → s.allocated s.ip = false →
    step s = .next { s with ip := s.ip + 1 }

/-- (a) Every instruction but JMP that leaves a next state has faulted with ip unchanged, or is a conditional jump taken
to ip + off + 2, or has advanced ip by exactly k + 1, k its operand count. (b) JMP puts ip at ip + bus and no further.
(c) The value written to an allocated address is read back there, and an address whose region index is at least the
region count reads 0. The landing address ip + off + 2 is the spec's decision D17. [40_step_cycle.md sections 1 and 3
(decision D17)] -/
def Obligations.AdvanceByOperandsPlusOne : Prop :=
  (∀ (i : Instr) (s t : State), i ≠ .jmp → exec i s = .next t →
    (∃ c info, c ≠ .none ∧ t = { s with status := .halted, fault := c, faultIp := s.ip, faultInfo := info }) ∨
    (∃ off, ((i = .jgt off ∧ s.compare = .greater) ∨ (i = .jlt off ∧ s.compare = .less) ∨
      (i = .jeq off ∧ s.compare = .equal)) ∧ t.ip = s.ip + off + 2) ∨
    t.ip = s.ip + BitVec.ofNat 32 (i.opcode.operandCount + 1)) ∧
  (∀ s : State, ∃ t, exec .jmp s = .next t ∧ t.ip = s.ip + s.bus) ∧
  (∀ (s : State) (a v : Word), s.allocated a = true → (s.setCell a v).memRead a = v) ∧
  (∀ (s : State) (a : Word), s.regionCount ≤ a.toNat / 2048 → s.memRead a = 0)

/-- For every state and address the allocation check holds exactly when floor(u(a) / 2048) < region_count, and
equivalently exactly when u(a) < region_count * 2048. [R63] -/
def Obligations.AllocatedBelowRegionEnd : Prop :=
  ∀ (s : State) (a : Word),
    (s.allocated a = true ↔ a.toNat / 2048 < s.regionCount) ∧
    (s.allocated a = true ↔ a.toNat < s.regionCount * 2048)

/-- Writing an allocated cell makes that address read as the value and leaves the read of every other address; creating a
region leaves the read of every address; an unallocated address reads 0. [20_memory.md section 2] -/
def Obligations.WriteThenReadCell : Prop :=
  (∀ (s : State) (a b v : Word), s.allocated a = true →
    (s.setCell a v).memRead b = if b = a then v else s.memRead b) ∧
  (∀ (s : State) (a : Word), s.addRegion.memRead a = s.memRead a) ∧
  (∀ (s : State) (a : Word), s.allocated a = false → s.memRead a = 0)

/-- In every state that meets the invariant, if a step leaves a next state in which some address reads otherwise than
before, then either the step ran one of the Processor (inside continue_ or for a step_over request, with no enabled
breakpoint at ip), the words at ip decode to a store whose effective address is that address, it is allocated, and it
reads as bus did; or status was not Running, the request taken was a host write of that allocated address, and it
reads as the word written. So no other instruction, no other command, no fault and no breakpoint changes any cell of
memory. [20_memory.md section 2, 45_run_control.md section 5] -/
def Obligations.CellsChangeOnlyByStoresAndHostWrites : Prop :=
  ∀ (s t : State) (a : Word), s.Inv → step s = .next t → t.memRead a ≠ s.memRead a →
    s.allocated a = true ∧
    ((s.runsProcessor ∧ t.memRead a = s.bus ∧
        ∃ i left, decode [s.memRead s.ip, s.memRead (s.ip + 1)] = .ok i left ∧ s.storeAddress i = some a) ∨
      (s.status ≠ .running ∧ ∃ v queue, s.hostQueue = .hostWrite a v :: queue ∧ t.memRead a = v))

/-- For every state and operand each of the four answers a next state: bus is the word read at the mode's effective
address (ip + [ip + off] for LDRP, ip + off for LDR, the operand itself for LDA), or the operand itself for LDI; ip is
ip + 2; every other register, flag, special register and every byte of memory is unchanged, and none faults. Each is
format O under its opcode. [R141, R143, R145, R147] -/
def Obligations.LoadsWriteBusOnly : Prop :=
  ∀ (s : State) (x : Word),
    (encode (.ldrp x) = [1, x] ∧ exec (.ldrp x) s =
      .next { s with bus := s.memRead (s.ip + s.memRead (s.ip + x)), ip := s.ip + 2 }) ∧
    (encode (.ldr x) = [3, x] ∧ exec (.ldr x) s = .next { s with bus := s.memRead (s.ip + x), ip := s.ip + 2 }) ∧
    (encode (.lda x) = [18, x] ∧ exec (.lda x) s = .next { s with bus := s.memRead x, ip := s.ip + 2 }) ∧
    (encode (.ldi x) = [20, x] ∧ exec (.ldi x) s = .next { s with bus := x, ip := s.ip + 2 })

/-- The effective address is ip + [ip + off] for STRP, ip + off for STR and the operand for STA. If it is allocated the
store answers a next state in which that address reads as bus, every other address reads as before, ip is ip + 2 and
every other element is unchanged. If it is unallocated the store takes RegionFault: fault_ip = ip, fault_info = the
address, status = Halted, and every other element and all of memory is unchanged. Each is format O under its opcode.
[R142, R144, R146] -/
def Obligations.StoresWriteOneCellOrFault : Prop :=
  ∀ (s : State) (x : Word),
    encode (.strp x) = [2, x] ∧ encode (.str x) = [4, x] ∧ encode (.sta x) = [19, x] ∧
    s.storeAddress (.strp x) = some (s.ip + s.memRead (s.ip + x)) ∧
    s.storeAddress (.str x) = some (s.ip + x) ∧ s.storeAddress (.sta x) = some x ∧
    ∀ (i : Instr) (ea : Word), (i = .strp x ∨ i = .str x ∨ i = .sta x) → s.storeAddress i = some ea →
      (s.allocated ea = true → ∃ t, exec i s = .next t ∧ t.memRead ea = s.bus ∧
        (∀ a, a ≠ ea → t.memRead a = s.memRead a) ∧ t = { s with mem := t.mem, ip := s.ip + 2 }) ∧
      (s.allocated ea = false → exec i s =
        .next { s with status := .halted, fault := .regionFault, faultIp := s.ip, faultInfo := ea })

/-- In every state, in both modes, PUSH answers the state with B = the old A, A = bus (all 32 bits as they are), ip + 1,
and every other element and all of memory unchanged. Format Z, opcode 5. [R161] -/
def Obligations.PushShiftsTheLatches : Prop :=
  encode .push = [5] ∧
  ∀ s : State, exec .push s = .next { s with latchB := s.latchA, latchA := s.bus, ip := s.ip + 1 }

/-- In int mode hi is the sum of A and B modulo 2^32; in float mode it is FAdd32(A, B); lo is 0, ip is ip + 1, and every
other element (A, B, bus and cmp among them) and all of memory is unchanged; ADD never faults. Format Z, opcode 6.
[R162] -/
def Obligations.AddWritesTheSumToHi : Prop :=
  encode .add = [6] ∧
  ∀ s : State,
    (s.mode = .int → exec .add s = .next { s with hi := s.latchA + s.latchB, lo := 0, ip := s.ip + 1 }) ∧
    (s.mode = .float → exec .add s = .next { s with hi := fAdd32 s.latchA s.latchB, lo := 0, ip := s.ip + 1 })

/-- In int mode hi is 0 - A modulo 2^32; in float mode hi has the low 31 bits of A and the other sign bit, NaNs included;
lo is 0, ip is ip + 1 and every other element and all of memory is unchanged. The rule marks the wrap and the NaN case
as the spec's decisions D10 and D15. [42_alu.md section 1 (NEG; decisions D10, D15)] -/
def Obligations.NegWritesTheNegationToHi : Prop :=
  encode .neg = [7] ∧
  ∀ s : State, ∃ t, exec .neg s = .next t ∧ t = { s with hi := t.hi, lo := 0, ip := s.ip + 1 } ∧
    (s.mode = .int → t.hi = - s.latchA) ∧
    (s.mode = .float → t.hi.extractLsb' 0 31 = s.latchA.extractLsb' 0 31 ∧ t.hi.getLsbD 31 = !s.latchA.getLsbD 31)

/-- MUL answers a next state that differs in hi, lo and ip only, ip being ip + 1. In int mode hi and lo joined, hi the
upper word, read as a signed 64-bit integer are exactly the product of the signed A and B; in float mode they are the
binary64 pattern FMul64(A, B). Format Z, opcode 8. [R164] -/
def Obligations.MulSplitsTheExactProduct : Prop :=
  encode .mul = [8] ∧
  ∀ s : State, ∃ t, exec .mul s = .next t ∧ t = { s with hi := t.hi, lo := t.lo, ip := s.ip + 1 } ∧
    (s.mode = .int → (t.hi ++ t.lo).toInt = s.latchA.toInt * s.latchB.toInt) ∧
    (s.mode = .float → t.hi ++ t.lo = fMul64 s.latchA s.latchB)

/-- In int mode with B not 0, hi is the signed quotient of A by B rounded toward zero and wrapped, lo is 0; with B = 0,
whatever A is, DIV takes DivideByZero with fault_ip = ip, fault_info = 0, status = Halted and nothing else changed. In
float mode hi and lo joined are FDiv64(A, B), for every A and B, and nothing faults. Where it completes ip is ip + 1
and every other element and all of memory is unchanged. Operand order and rounding are the spec's decisions D12 and
D13. [42_alu.md section 1 (DIV; decisions D12, D13), 60_exceptions.md section 1] -/
def Obligations.DivWritesTheQuotientOrFaults : Prop :=
  encode .div = [9] ∧
  ∀ s : State,
    (s.mode = .int → s.latchB ≠ 0 →
      exec .div s = .next { s with hi := s.latchA.sdiv s.latchB, lo := 0, ip := s.ip + 1 }) ∧
    (s.mode = .int → s.latchB = 0 →
      exec .div s = .next { s with status := .halted, fault := .divideByZero, faultIp := s.ip, faultInfo := 0 }) ∧
    (s.mode = .float → ∃ t, exec .div s = .next t ∧ t = { s with hi := t.hi, lo := t.lo, ip := s.ip + 1 } ∧
      t.hi ++ t.lo = fDiv64 s.latchA s.latchB)

/-- For every A and B not 0, other than A = -2^31 with B = -1: A = q * B + r for the quotient q and a remainder r smaller
in magnitude than B that is 0 or has the sign of A. For A = -2^31 and B = -1 the quotient word is 0x80000000. Rounding
toward zero and the wrap are the spec's decision D13. [42_alu.md section 2 (decision D13)] -/
def Obligations.IntegerQuotientTruncates : Prop :=
  (∀ a b : Word, b ≠ 0 → ¬ (a = 0x80000000 ∧ b = 0xFFFFFFFF) →
    ∃ r : Int, a.toInt = (intQuotient a b).toInt * b.toInt + r ∧ r.natAbs < b.toInt.natAbs ∧
      (0 < r → 0 < a.toInt) ∧ (r < 0 → a.toInt < 0)) ∧
  intQuotient 0x80000000 0xFFFFFFFF = 0x80000000

/-- In every state FMODE answers the state with mode = float and IMODE the state with mode = int, each with ip + 1 and
every other element (A and B bit for bit, hi, lo, cmp, bus) and all of memory unchanged. The bit-preserving switch is
the spec's decision D9. Format Z, opcodes 21 and 22. [42_alu.md section 1 (FMODE, IMODE; decision D9)] -/
def Obligations.ModeSwitchesKeepTheBits : Prop :=
  encode .fmode = [21] ∧ encode .imode = [22] ∧
  ∀ s : State, exec .fmode s = .next { s with mode := .float, ip := s.ip + 1 } ∧
    exec .imode s = .next { s with mode := .int, ip := s.ip + 1 }

/-- In every state and both modes MFLO answers the state with bus = lo and MFHI the state with bus = hi, each with ip + 1
and every other element and all of memory unchanged. Format Z, opcodes 23 and 24. [R168, R169] -/
def Obligations.MovesReadTheResultRegisters : Prop :=
  encode .mflo = [23] ∧ encode .mfhi = [24] ∧
  ∀ s : State, exec .mflo s = .next { s with bus := s.lo, ip := s.ip + 1 } ∧
    exec .mfhi s = .next { s with bus := s.hi, ip := s.ip + 1 }

/-- If exec of an instruction leaves a next state, then: cmp has changed only for JGT, JLT, JEQ; mode only for FMODE,
IMODE; A or B only for PUSH; hi or lo only for ADD, NEG, MUL, DIV; bus only for LDRP, LDR, LDA, LDI, MFLO, MFHI, SYS;
region_count only for GROW; the syscall index and turns only for SYS; and no instruction changes bp_set, bp_enabled or
the host's waiting requests. [10_state.md sections 2 to 6 (rules on bus, mode, A, B, hi, lo, cmp, region_count and the
breakpoint state)] -/
def Obligations.RegisterWriters : Prop :=
  ∀ (i : Instr) (s t : State), exec i s = .next t →
    (t.cmp ≠ s.cmp → i.opcode ∈ [.jgt, .jlt, .jeq]) ∧
    (t.mode ≠ s.mode → i.opcode ∈ [.fmode, .imode]) ∧
    (t.latchA ≠ s.latchA ∨ t.latchB ≠ s.latchB → i.opcode = .push) ∧
    (t.hi ≠ s.hi ∨ t.lo ≠ s.lo → i.opcode ∈ [.add, .neg, .mul, .div]) ∧
    (t.bus ≠ s.bus → i.opcode ∈ [.ldrp, .ldr, .lda, .ldi, .mflo, .mfhi, .sys]) ∧
    (t.regionCount ≠ s.regionCount → i.opcode = .grow) ∧
    (t.syscallCount ≠ s.syscallCount ∨ t.syscallQueue ≠ s.syscallQueue ∨ t.portLog ≠ s.portLog → i.opcode = .sys) ∧
    t.bpSet = s.bpSet ∧ t.bpEnabled = s.bpEnabled ∧ t.hostQueue = s.hostQueue

/-- A NaN operand gives 0x7FC00000; infinities of opposite sign give 0x7FC00000; two infinities of one sign, or an
infinity and a finite datum in either order, give that infinity's own pattern; two zeros give +0 unless both are -0,
then -0; non-zero operands whose exact sum is zero give +0. (The environment is the spec's decisions D14 and D15.)
[42_alu.md section 3 (decisions D14, D15)] -/
def Obligations.FloatAddSpecialValues : Prop :=
  ∀ (a b : Word) (n m : Bool) (x y : Nat),
    (f32 a = .nan ∨ f32 b = .nan → fAdd32 a b = 0x7FC00000) ∧
    (f32 a = .inf n → f32 b = .inf (!n) → fAdd32 a b = 0x7FC00000) ∧
    (f32 a = .inf n → f32 b = .inf n → fAdd32 a b = a) ∧
    (f32 a = .inf n → f32 b = .finite m y → fAdd32 a b = a ∧ fAdd32 b a = a) ∧
    (f32 a = .finite n 0 → f32 b = .finite m 0 → fAdd32 a b = if n && m then 0x80000000 else 0) ∧
    (f32 a = .finite n x → f32 b = .finite m y → x ≠ 0 → signedMag n x + signedMag m y = 0 → fAdd32 a b = 0)

/-- For finite A and B with exact sum S (in units of 2^-149): if the magnitude of S is at least 2^128 - 2^103 the result
is the infinity of S's sign. Otherwise the result is finite, no binary32 datum is nearer to S, and where another datum
is as near the result's last fraction bit is 0. [42_alu.md section 3 (decision D14), 00_scope.md section 5] -/
def Obligations.FloatAddRoundsToNearestEven : Prop :=
  ∀ (a b : Word) (x y : Int), (f32 a).toInt? = some x → (f32 b).toInt? = some y →
    (2 ^ 277 - 2 ^ 252 ≤ (x + y).natAbs → f32 (fAdd32 a b) = .inf (decide (x + y < 0))) ∧
    ((x + y).natAbs < 2 ^ 277 - 2 ^ 252 → ∃ r : Int, (f32 (fAdd32 a b)).toInt? = some r ∧
      ∀ (c : Word) (z : Int), (f32 c).toInt? = some z →
        (r - (x + y)).natAbs ≤ (z - (x + y)).natAbs ∧
        ((r - (x + y)).natAbs = (z - (x + y)).natAbs → z ≠ r → (fAdd32 a b).getLsbD 0 = false))

/-- For finite binary32 A and B (zeros and subnormals included) the binary64 result denotes exactly the product of the
two, with the sign A[31] xor B[31]: a magnitude of x and of y units of 2^-149 gives x * y * 2^776 units of 2^-1074.
(The spec marks the exactness as derived from the formats.) [42_alu.md section 3] -/
def Obligations.FloatMulIsExact : Prop :=
  ∀ (a b : Word) (n m : Bool) (x y : Nat), f32 a = .finite n x → f32 b = .finite m y →
    f64 (fMul64 a b) = .finite (n ^^ m) (x * y * 2 ^ 776)

/-- For finite non-zero A and B of magnitudes x and y the result is finite, of sign A[31] xor B[31] and of a normal
magnitude q (at least 2^52 units of 2^-1074); no binary64 magnitude is nearer to x / y, and where another is as near
the result's last fraction bit is 0. [42_alu.md section 3 (decisions D12, D14)] -/
def Obligations.FloatDivRoundsToNearestEven : Prop :=
  ∀ (a b : Word) (n m : Bool) (x y : Nat), f32 a = .finite n x → f32 b = .finite m y → x ≠ 0 → y ≠ 0 →
    ∃ q : Nat, f64 (fDiv64 a b) = .finite (n ^^ m) q ∧ 2 ^ 52 ≤ q ∧
      ∀ (c : BitVec 64) (k : Bool) (z : Nat), f64 c = .finite k z →
        ((q * y : Int) - x * 2 ^ 1074).natAbs ≤ ((z * y : Int) - x * 2 ^ 1074).natAbs ∧
        (((q * y : Int) - x * 2 ^ 1074).natAbs = ((z * y : Int) - x * 2 ^ 1074).natAbs → z ≠ q →
          (fDiv64 a b).getLsbD 0 = false)

/-- A NaN operand gives 0x7FF8000000000000, and so do infinity times zero, infinity over infinity and zero over zero. An
infinity times an infinity or a finite non-zero datum, an infinity over any finite datum, and a finite non-zero datum
over a zero give the infinity of sign A[31] xor B[31]; a finite datum over an infinity, and a zero over a finite non-
zero datum, give the zero of that sign. [42_alu.md section 3 (decisions D14, D15)] -/
def Obligations.FloatMulDivSpecialValues : Prop :=
  ∀ (a b : Word) (n m : Bool) (x y : Nat),
    (f32 a = .nan ∨ f32 b = .nan → fMul64 a b = 0x7FF8000000000000 ∧ fDiv64 a b = 0x7FF8000000000000) ∧
    (f32 a = .inf n → f32 b = .inf m → f64 (fMul64 a b) = .inf (n ^^ m) ∧ fDiv64 a b = 0x7FF8000000000000) ∧
    (f32 a = .inf n → f32 b = .finite m y →
      (y = 0 → fMul64 a b = 0x7FF8000000000000 ∧ fMul64 b a = 0x7FF8000000000000) ∧
      (y ≠ 0 → f64 (fMul64 a b) = .inf (n ^^ m) ∧ f64 (fMul64 b a) = .inf (n ^^ m)) ∧
      f64 (fDiv64 a b) = .inf (n ^^ m) ∧ f64 (fDiv64 b a) = .finite (n ^^ m) 0) ∧
    (f32 a = .finite n x → f32 b = .finite m 0 →
      (x = 0 → fDiv64 a b = 0x7FF8000000000000) ∧ (x ≠ 0 → f64 (fDiv64 a b) = .inf (n ^^ m))) ∧
    (f32 a = .finite n 0 → f32 b = .finite m y → y ≠ 0 → f64 (fDiv64 a b) = .finite (n ^^ m) 0)

/-- For every two words, NaNs, infinities and zeros included, the float sum and the float product do not depend on the
order of the operands. [42_alu.md section 3] -/
def Obligations.FloatAddMulCommute : Prop :=
  ∀ a b : Word, fAdd32 a b = fAdd32 b a ∧ fMul64 a b = fMul64 b a

/-- In int mode the outcome is greater, less or equal exactly as the signed A is above, below or equal to the signed B. In
float mode it is equal if either is a NaN; otherwise it is that of the signed integers that the sign bit and the low
31 bits of each pattern stand for, so that -0 equals +0 and the infinities lie outside every finite value. The
contract and CMP_UNORDERED = 0 are the spec's decisions D7 and D8. [42_alu.md section 4 (decisions D7, D8)] -/
def Obligations.CompareIsTheSignOfAAgainstB : Prop :=
  ∀ s : State,
    let key : Word → Int := fun v =>
      if v.getLsbD 31 then -((v.extractLsb' 0 31).toNat : Int) else (v.extractLsb' 0 31).toNat
    (s.mode = .int →
      (s.compare = .greater ↔ s.latchB.toInt < s.latchA.toInt) ∧
      (s.compare = .less ↔ s.latchA.toInt < s.latchB.toInt) ∧ (s.compare = .equal ↔ s.latchA = s.latchB)) ∧
    (s.mode = .float → f32 s.latchA = .nan ∨ f32 s.latchB = .nan → s.compare = .equal) ∧
    (s.mode = .float → f32 s.latchA ≠ .nan → f32 s.latchB ≠ .nan →
      (s.compare = .greater ↔ key s.latchB < key s.latchA) ∧
      (s.compare = .less ↔ key s.latchA < key s.latchB) ∧ (s.compare = .equal ↔ key s.latchA = key s.latchB))

/-- In every state JMP answers the state with ip = ip + bus modulo 2^32 and every other element (bus and cmp among them)
and all of memory unchanged. Format Z, opcode 10. [R201] -/
def Obligations.JmpAddsBusToIp : Prop :=
  encode .jmp = [10] ∧ ∀ s : State, exec .jmp s = .next { s with ip := s.ip + s.bus }

/-- In every state and for every offset each conditional jump answers the state with cmp = the comparison of A against B
in the current mode, taken or not, ip = ip + off + 2 if the comparison is greater (JGT), less (JLT), equal (JEQ) and
ip + 2 otherwise, and every other element and all of memory unchanged. The landing address is the spec's decision D17.
Format O, opcodes 11, 12 and 13. [43_control_transfer.md (JGT, JLT, JEQ; decisions D7, D17)] -/
def Obligations.ConditionalJumpsLatchAndBranch : Prop :=
  ∀ (s : State) (off : Word),
    encode (.jgt off) = [11, off] ∧ encode (.jlt off) = [12, off] ∧ encode (.jeq off) = [13, off] ∧
    exec (.jgt off) s = .next { s with cmp := s.compare,
                                       ip := if s.compare = .greater then s.ip + off + 2 else s.ip + 2 } ∧
    exec (.jlt off) s = .next { s with cmp := s.compare,
                                       ip := if s.compare = .less then s.ip + off + 2 else s.ip + 2 } ∧
    exec (.jeq off) s = .next { s with cmp := s.compare,
                                       ip := if s.compare = .equal then s.ip + off + 2 else s.ip + 2 }

/-- For every state and every offset other than 0, the three conditional jumps answer next states of which exactly one has
ip = ip + off + 2 and the two others ip + 2; A, B and mode are unchanged in all three. (The spec marks this rule as
derived.) [43_control_transfer.md (trichotomy)] -/
def Obligations.ExactlyOneConditionalJumpIsTaken : Prop :=
  ∀ (s : State) (off : Word), off ≠ 0 →
    ∃ g l e : State, exec (.jgt off) s = .next g ∧ exec (.jlt off) s = .next l ∧ exec (.jeq off) s = .next e ∧
      ((g.ip = s.ip + off + 2 ∧ l.ip = s.ip + 2 ∧ e.ip = s.ip + 2) ∨
        (g.ip = s.ip + 2 ∧ l.ip = s.ip + off + 2 ∧ e.ip = s.ip + 2) ∨
        (g.ip = s.ip + 2 ∧ l.ip = s.ip + 2 ∧ e.ip = s.ip + off + 2)) ∧
      s.ip + off + 2 ≠ s.ip + 2 ∧
      ∀ t ∈ [g, l, e], t.latchA = s.latchA ∧ t.latchB = s.latchB ∧ t.mode = s.mode

/-- In every state NOP answers the state with ip + 1 and every other element and all of memory unchanged. Format Z, opcode
0. [R221] -/
def Obligations.NopAdvancesOnly : Prop :=
  encode .nop = [0] ∧ ∀ s : State, exec .nop s = .next { s with ip := s.ip + 1 }

/-- In every state HALT answers the state with status = Halted and PAUSE the state with status = Paused, each with ip + 1
and every other element and all of memory unchanged. Format Z, opcodes 16 and 17. [44_system.md (HALT, PAUSE)] -/
def Obligations.HaltAndPauseSetStatus : Prop :=
  encode .halt = [16] ∧ encode .pause = [17] ∧
  ∀ s : State, exec .halt s = .next { s with status := .halted, ip := s.ip + 1 } ∧
    exec .pause s = .next { s with status := .paused, ip := s.ip + 1 }

/-- With fewer than 2097152 regions GROW answers a next state with one region more and ip + 1, in which every address
reads as before, every address of the new region is allocated and reads 0, and every other element is unchanged. With
2097152 regions it takes RegionFault: fault_ip = ip, fault_info = 0 (2^32 modulo 2^32), status = Halted, nothing else
changed. The limit is the spec's decision D18. Format Z, opcode 14. [44_system.md (GROW; decision D18), 20_memory.md
section 1] -/
def Obligations.GrowAddsOneZeroedRegion : Prop :=
  encode .grow = [14] ∧
  ∀ s : State,
    (s.regionCount < 2097152 → ∃ t, exec .grow s = .next t ∧
      t = { s with regionCount := s.regionCount + 1, mem := t.mem, ip := s.ip + 1 } ∧
      (∀ a, t.memRead a = s.memRead a) ∧
      (∀ a : Word, s.regionCount * 2048 ≤ a.toNat → a.toNat < (s.regionCount + 1) * 2048 →
        s.allocated a = false ∧ t.allocated a = true ∧ t.memRead a = 0)) ∧
    (s.regionCount = 2097152 → exec .grow s =
      .next { s with status := .halted, fault := .regionFault, faultIp := s.ip, faultInfo := 0 })

/-- Where the host answers the coming syscall, SYS answers a next state: bus is the host's word for this call (a free
value, notes/assumptions/2.md: nothing is said of it), ip is ip + 2, the port has carried the request with code = the
signed bus and arg = the signed operand, followed by the answers to whatever the host asked meanwhile, the turn is
over, the call is counted, and every other element and all of memory is unchanged. Where the host never answers, the
step never completes (spec/93 U13): the model's fault syscallUnanswered. Format O, opcode 15. [44_system.md (SYS;
decision D24), 45_run_control.md section 6] -/
def Obligations.SysExchangesWithTheHost : Prop :=
  ∀ (s : State) (arg : Word),
    encode (.sys arg) = [15, arg] ∧
    (s.syscallTurn.answered = true → exec (.sys arg) s =
      .next { s with
        bus := Config.hostAnswer s.syscallCount s.bus.toInt arg.toInt
        ip := s.ip + 2
        portLog := s.portLog ++ .syscall s.bus.toInt arg.toInt :: s.syscallTurn.requests.map s.answerInSyscall
        syscallQueue := s.syscallQueue.tail
        syscallCount := s.syscallCount + 1 }) ∧
    (s.syscallTurn.answered = false → exec (.sys arg) s = .fault .syscallUnanswered)

/-- A request the host makes while a syscall is outstanding is answered: the instruction pointer is that of the SYS, the
status code 3 (Running) inside continue_, 0 in Paused and 2 in NotStarted, the region size 2048, the fault registers,
and a memory-port read of an allocated cell its word; a read of an unallocated cell and every state-changing request
are refused. (Refusal is the spec's decision D28.) [44_system.md (SYS; decision D24), 45_run_control.md section 1
(decision D28)] -/
def Obligations.RequestsInsideASyscallOnlyRead : Prop :=
  ∀ s : State,
    s.answerInSyscall .getInstructionPointer = .response .getInstructionPointer (.instructionPointer s.ip) ∧
    (s.status = .running → s.answerInSyscall .getStatus = .response .getStatus (.statusCode 3)) ∧
    (s.status = .paused → s.answerInSyscall .getStatus = .response .getStatus (.statusCode 0)) ∧
    (s.status = .notStarted → s.answerInSyscall .getStatus = .response .getStatus (.statusCode 2)) ∧
    s.answerInSyscall .getRegionSize = .response .getRegionSize (.regionSize 2048) ∧
    s.answerInSyscall .getFault =
      .response .getFault (.faultRegisters (faultCode s.fault) s.faultIp s.faultInfo) ∧
    (∀ a, s.allocated a = true → s.answerInSyscall (.hostRead a) = .response (.hostRead a) (.cell (s.memRead a))) ∧
    (∀ a, s.allocated a = false → s.answerInSyscall (.hostRead a) = .response (.hostRead a) .refused) ∧
    ∀ r a v, r ∈ [HostRequest.initMachine, .setBreakpoint a, .removeBreakpoint a, .enableBreakpoints,
        .disableBreakpoints, .continueRun, .stepOver, .hostWrite a v] →
      s.answerInSyscall r = .response r .refused

/-- If exec of an instruction leaves a next state whose fault registers differ from before, then the state differs in
status (Halted) and the fault registers only, fault_ip is ip, and either DIV in int mode with B = 0 raised
DivideByZero with fault_info 0, or a store to an unallocated effective address raised RegionFault with that address,
or GROW with at least 2097152 regions raised RegionFault with the first address past them modulo 2^32. The limit is
the spec's decision D18; that GROW also faults with more regions than the limit, which no reachable state has, is the
model's choice (DEDUCED, notes/assumptions/10.md). [60_exceptions.md section 1 (decision D18)] -/
def Obligations.FaultCauseTable : Prop :=
  ∀ (i : Instr) (s t : State), exec i s = .next t →
    (t.fault ≠ s.fault ∨ t.faultIp ≠ s.faultIp ∨ t.faultInfo ≠ s.faultInfo) →
    ∃ (c : FaultCause) (info : Word),
      t = { s with status := .halted, fault := c, faultIp := s.ip, faultInfo := info } ∧
      ((i = .div ∧ s.mode = .int ∧ s.latchB = 0 ∧ c = .divideByZero ∧ info = 0) ∨
        (s.storeAddress i = some info ∧ s.allocated info = false ∧ c = .regionFault) ∨
        (i = .grow ∧ 2097152 ≤ s.regionCount ∧ c = .regionFault ∧ info = BitVec.ofNat 32 (s.regionCount * 2048)))

/-- If a fault has been recorded and a step leaves a next state, a fault is still recorded; and if the fault registers
have changed over the step, the step was one of the Processor (inside continue_, or for step_over) and fault_ip names
the instruction it was at. [60_exceptions.md section 3 (decision D6), 10_state.md section 5] -/
def Obligations.FaultRegistersNeverCleared : Prop :=
  ∀ s t : State, step s = .next t →
    (s.fault ≠ .none → t.fault ≠ .none) ∧
    (t.fault ≠ s.fault ∨ t.faultIp ≠ s.faultIp ∨ t.faultInfo ≠ s.faultInfo →
      t.faultIp = s.ip ∧ t.ip = s.ip ∧ s.runsProcessor)

/-- In every state, whatever words are at ip and whatever the host asks, a step leaves a next state if the host answers
the coming syscall, and no step is ever refused: every instruction either completes or takes a fault, which is a next
state. [40_step_cycle.md section 1, 60_exceptions.md section 1] -/
def Obligations.EveryStepHasANextState : Prop :=
  ∀ s : State, (s.syscallTurn.answered = true → ∃ t, step s = .next t) ∧ ∀ r, step s ≠ .refused r

/-- With breakpoints enabled and ip in the set, the guarded step answers the state with status = Paused and nothing else
changed; otherwise it is the Processor's step. Inside continue_ every step of the machine is a guarded step; a
step_over request in Paused or NotStarted runs through it too, the first step of a command included. [R250] -/
def Obligations.BreakpointStopsBeforeTheInstruction : Prop :=
  (∀ s : State, s.bpEnabled = true → s.ip ∈ s.bpSet → guardedStep s = .next { s with status := .paused }) ∧
  (∀ s : State, (s.bpEnabled = false ∨ s.ip ∉ s.bpSet) → guardedStep s = processorStep s) ∧
  (∀ s : State, s.status = .running → step s = guardedStep s) ∧
  (∀ (s t : State) (queue : List HostRequest), s.hostQueue = .stepOver :: queue → step s = .next t →
    (s.status = .paused → guardedStep { s with hostQueue := queue } = .next t) ∧
    (s.status = .notStarted → ∃ u, guardedStep { s with hostQueue := queue } = .next u ∧
      t = { u with status := .paused }))

/-- In Paused or NotStarted with breakpoints enabled and ip in the set: a step_over request leaves the state with status =
Paused and the request taken; a continue_ request, and the one guarded step after it, leave the same; nothing else has
changed. (The spec marks this rule as derived.) [45_run_control.md section 3] -/
def Obligations.NoProgressAtABreakpoint : Prop :=
  ∀ (s : State) (queue : List HostRequest), s.status = .paused ∨ s.status = .notStarted →
    s.bpEnabled = true → s.ip ∈ s.bpSet →
    (s.hostQueue = .stepOver :: queue → step s = .next { s with status := .paused, hostQueue := queue }) ∧
    (s.hostQueue = .continueRun :: queue →
      step s = .next { s with status := .running, hostQueue := queue } ∧
      step { s with status := .running, hostQueue := queue } =
        .next { s with status := .paused, hostQueue := queue })

/-- (a) Inside continue_ at an enabled breakpoint the machine stops with status Paused, ip at it, the instruction not
executed; with the breakpoint removed and continue_ requested again the steps are: removal, Running, then the
Processor's step at that ip. (b) step_over in NotStarted, with no breakpoint at ip, runs one step of the Processor and
leaves Paused. (c) continue_ in Halted or Empty executes nothing and changes nothing but that the request is taken.
[R266] -/
def Obligations.RunControlScenarios : Prop :=
  (∀ (s : State) (queue : List HostRequest), s.status = .running → s.bpEnabled = true → s.ip ∈ s.bpSet →
    s.hostQueue = .removeBreakpoint s.ip :: .continueRun :: queue →
    ∃ t u v, step s = .next t ∧ t = { s with status := .paused } ∧ step t = .next u ∧ step u = .next v ∧
      v.status = .running ∧ v.ip = s.ip ∧ v = { s with bpSet := v.bpSet, hostQueue := queue } ∧
      s.ip ∉ v.bpSet ∧ step v = processorStep v) ∧
  (∀ (s t : State) (queue : List HostRequest), s.status = .notStarted → (s.bpEnabled = false ∨ s.ip ∉ s.bpSet) →
    s.hostQueue = .stepOver :: queue → step s = .next t →
    ∃ u, processorStep { s with hostQueue := queue } = .next u ∧ t = { u with status := .paused }) ∧
  (∀ (s : State) (queue : List HostRequest), s.status = .halted ∨ s.status = .empty →
    s.hostQueue = .continueRun :: queue → step s = .next { s with hostQueue := queue })

/-- A continue_ request in NotStarted or Paused leaves the state with status = Running and the request taken, no
instruction executed; from then on every step is a guarded step while status is Running, and the host's next request
is not taken before status has left Running. [45_run_control.md section 3] -/
def Obligations.ContinueSetsRunning : Prop :=
  (∀ (s : State) (queue : List HostRequest), s.status = .notStarted ∨ s.status = .paused →
    s.hostQueue = .continueRun :: queue → step s = .next { s with status := .running, hostQueue := queue }) ∧
  (∀ s t : State, s.status = .running → step s = .next t → guardedStep s = .next t ∧ t.hostQueue = s.hostQueue)

/-- In Empty and in Halted a step_over request leaves the state with only the request taken; a state that is Running takes
no request at all. [R254] -/
def Obligations.StepOverElsewhereDoesNothing : Prop :=
  (∀ (s : State) (queue : List HostRequest), s.status = .empty ∨ s.status = .halted →
    s.hostQueue = .stepOver :: queue → step s = .next { s with hostQueue := queue }) ∧
  (∀ s t : State, s.status = .running → step s = .next t → t.hostQueue = s.hostQueue)

/-- In Empty an initialize request leaves a state with status = NotStarted and one region, in which every address below
2048 is allocated and every address reads 0, and everything else but the request is unchanged. In NotStarted, Paused
and Halted it changes nothing but that the request is taken (the spec's decision D20). [45_run_control.md section 2
(decision D20), 10_state.md section 8] -/
def Obligations.InitializeActsInEmptyOnly : Prop :=
  ∀ (s : State) (queue : List HostRequest), s.hostQueue = .initMachine :: queue →
    (s.status = .empty → ∃ t, step s = .next t ∧
      t = { s with status := .notStarted, regionCount := 1, mem := t.mem, hostQueue := queue } ∧
      (∀ a : Word, a.toNat < 2048 → t.allocated a = true) ∧ ∀ a, t.memRead a = 0) ∧
    (s.status = .notStarted ∨ s.status = .paused ∨ s.status = .halted →
      step s = .next { s with hostQueue := queue })

/-- In any status but Running a set_breakpoint request leaves a state in which the set has the address and otherwise the
members it had, and a remove_breakpoint request one in which it has not the address and otherwise the members it had;
nothing else but the taken request changes. On a set in canonical form, setting a present address and removing an
absent one leave the set itself as it is. [R243, R244] -/
def Obligations.BreakpointEditsAreSetEdits : Prop :=
  ∀ (s : State) (a : Word) (queue : List HostRequest), s.status ≠ .running →
    (s.hostQueue = .setBreakpoint a :: queue → ∃ t, step s = .next t ∧
      t = { s with bpSet := t.bpSet, hostQueue := queue } ∧ (∀ b, b ∈ t.bpSet ↔ b = a ∨ b ∈ s.bpSet) ∧
      (bpSorted s.bpSet = true → a ∈ s.bpSet → t.bpSet = s.bpSet)) ∧
    (s.hostQueue = .removeBreakpoint a :: queue → ∃ t, step s = .next t ∧
      t = { s with bpSet := t.bpSet, hostQueue := queue } ∧ (∀ b, b ∈ t.bpSet ↔ b ≠ a ∧ b ∈ s.bpSet) ∧
      (a ∉ s.bpSet → t.bpSet = s.bpSet))

/-- In any status but Running the two requests leave the state with bp_enabled 1 and 0 and the request taken; bp_set and
everything else is unchanged. [R245, R246] -/
def Obligations.BreakpointEnableEdits : Prop :=
  ∀ (s : State) (queue : List HostRequest), s.status ≠ .running →
    (s.hostQueue = .enableBreakpoints :: queue → step s = .next { s with bpEnabled := true, hostQueue := queue }) ∧
    (s.hostQueue = .disableBreakpoints :: queue → step s = .next { s with bpEnabled := false, hostQueue := queue })

/-- In any status but Running the two requests leave the state with the answer passed to the host (ip; 2048 in every
state, whatever region_count is) and the request taken, and nothing else changed. [R257, R259] -/
def Obligations.InspectionsAnswerAndChangeNothing : Prop :=
  ∀ (s : State) (queue : List HostRequest), s.status ≠ .running →
    (s.hostQueue = .getInstructionPointer :: queue → step s = .next { s with
      portLog := s.portLog ++ [.response .getInstructionPointer (.instructionPointer s.ip)], hostQueue := queue }) ∧
    (s.hostQueue = .getRegionSize :: queue → step s = .next { s with
      portLog := s.portLog ++ [.response .getRegionSize (.regionSize 2048)], hostQueue := queue })

/-- In any status but Running a get_status request answers 4, 2, 0, 1 in Empty, NotStarted, Paused, Halted, and a
get_fault request answers the code of the cause (0 none, 1 InvalidInstruction, 2 DivideByZero, 3 RegionFault) with
fault_ip and fault_info; nothing else but the taken request changes. The codes are the spec's decisions D3 and D4.
[45_run_control.md section 4 (decisions D3, D4), 10_state.md section 5] -/
def Obligations.StatusAndFaultCodes : Prop :=
  ∀ (s : State) (queue : List HostRequest), s.status ≠ .running →
    (s.hostQueue = .getStatus :: queue → ∃ code : Word, step s = .next { s with
        portLog := s.portLog ++ [.response .getStatus (.statusCode code)], hostQueue := queue } ∧
      (s.status = .empty → code = 4) ∧ (s.status = .notStarted → code = 2) ∧ (s.status = .paused → code = 0) ∧
      (s.status = .halted → code = 1)) ∧
    (s.hostQueue = .getFault :: queue → ∃ code : Word, step s = .next { s with
        portLog := s.portLog ++ [.response .getFault (.faultRegisters code s.faultIp s.faultInfo)],
        hostQueue := queue } ∧
      (s.fault = .none → code = 0) ∧ (s.fault = .invalidInstruction → code = 1) ∧
      (s.fault = .divideByZero → code = 2) ∧ (s.fault = .regionFault → code = 3))

/-- In any status but Running: a host write of an allocated cell leaves a state in which it reads as the word and every
other address as before, and nothing but memory and the taken request changes; a host read of an allocated cell
answers its word and changes nothing. On an unallocated address both are refused: no cell, register, status or fault
changes. (The port is the spec's decision D23.) [45_run_control.md section 5 (decision D23)] -/
def Obligations.MemoryPortReachesAllocatedCells : Prop :=
  ∀ (s : State) (a v : Word) (queue : List HostRequest), s.status ≠ .running →
    (s.hostQueue = .hostWrite a v :: queue →
      (s.allocated a = true → ∃ t, step s = .next t ∧ t = { s with mem := t.mem, hostQueue := queue } ∧
        t.memRead a = v ∧ ∀ b, b ≠ a → t.memRead b = s.memRead b) ∧
      (s.allocated a = false → step s = .next { s with
        portLog := s.portLog ++ [.response (.hostWrite a v) .refused], hostQueue := queue })) ∧
    (s.hostQueue = .hostRead a :: queue →
      (s.allocated a = true → step s = .next { s with
        portLog := s.portLog ++ [.response (.hostRead a) (.cell (s.memRead a))], hostQueue := queue }) ∧
      (s.allocated a = false → step s = .next { s with
        portLog := s.portLog ++ [.response (.hostRead a) .refused], hostQueue := queue }))

/-- From a Halted state every step leaves a next state that is Halted too, with ip, bus, mode, A, B, hi, lo, cmp,
region_count and the fault registers unchanged, and nothing passes over the syscall port. Every address reads as
before, unless the request taken is a host write of that very address, which then reads as the word written: the host
may repair memory (the rule on trap return), and no instruction runs on it. [10_state.md section 5, 60_exceptions.md
section 3] -/
def Obligations.HaltedIsTerminal : Prop :=
  ∀ s : State, s.status = .halted → ∃ t, step s = .next t ∧ t.status = .halted ∧ t.ip = s.ip ∧ t.bus = s.bus ∧
    t.mode = s.mode ∧ t.latchA = s.latchA ∧ t.latchB = s.latchB ∧ t.hi = s.hi ∧ t.lo = s.lo ∧ t.cmp = s.cmp ∧
    t.regionCount = s.regionCount ∧ t.fault = s.fault ∧ t.faultIp = s.faultIp ∧ t.faultInfo = s.faultInfo ∧
    t.syscallCount = s.syscallCount ∧ t.syscallQueue = s.syscallQueue ∧
    ∀ a, t.memRead a = s.memRead a ∨ ∃ v, s.hostQueue.head? = some (.hostWrite a v) ∧ t.memRead a = v

/-- Over a step that leaves a next state: Empty stays or goes to NotStarted, by initialize; NotStarted stays, goes to
Running, by continue_, or to Paused, by step_over; Running stays, goes to Paused or to Halted; Paused stays, goes to
Running, by continue_, or to Halted, by step_over; Halted stays. [10_state.md section 5 (the status transition table)] -/
def Obligations.StatusTransitionTable : Prop :=
  ∀ s t : State, step s = .next t → t.status ≠ s.status →
    (s.status = .empty ∧ t.status = .notStarted ∧ s.hostQueue.head? = some .initMachine) ∨
    (s.status = .notStarted ∧ t.status = .running ∧ s.hostQueue.head? = some .continueRun) ∨
    (s.status = .notStarted ∧ t.status = .paused ∧ s.hostQueue.head? = some .stepOver) ∨
    (s.status = .running ∧ (t.status = .paused ∨ t.status = .halted)) ∨
    (s.status = .paused ∧ t.status = .running ∧ s.hostQueue.head? = some .continueRun) ∨
    (s.status = .paused ∧ t.status = .halted ∧ s.hostQueue.head? = some .stepOver)

/-- In every state that meets the invariant, a step that leaves a next state leaves region_count as it is or one greater;
it grows only by an initialize request in Empty, or in a step of the Processor (inside continue_ or for a step_over
request, with no enabled breakpoint at ip) whose words at ip decode to GROW. [10_state.md section 6, 20_memory.md
section 1] -/
def Obligations.RegionsOnlyGrow : Prop :=
  ∀ s t : State, s.Inv → step s = .next t →
    t.regionCount = s.regionCount ∨
    (t.regionCount = s.regionCount + 1 ∧
      ((s.status = .empty ∧ s.hostQueue.head? = some .initMachine) ∨
        (s.runsProcessor ∧ ∃ left, decode [s.memRead s.ip, s.memRead (s.ip + 1)] = .ok .grow left)))

/-- In Empty, NotStarted, Paused and Halted, with no request waiting, a step leaves the state as it is. [60_exceptions.md
section 4, 45_run_control.md section 1] -/
def Obligations.IdleWithoutARequest : Prop :=
  ∀ s : State, s.status ≠ .running → s.hostQueue = [] → step s = .next s

/-- What a program computes with is the state without status, bp_set, bp_enabled, the host's waiting requests and the
ports' log. (a) Take two states that agree in it, so that the host handles the same syscalls in the same way: if n
steps of the Processor from the first leave a next state, n steps from the second do too, and the two states reached
agree in it. (b) If no host write is waiting, and in Empty no initialize, then whatever other requests are (continue_,
step_over, breakpoint edits, queries, in any order), n steps of the machine, where they leave a next state, agree in
it with the state that some k of at most n steps of the Processor alone reach. The comparison of two runs rests on log
entry 2 (DESIGN CHOICE): the host's answer is one free function of the number of the call, the code and the argument,
which is the spec's proviso 'with the same syscall answers'. (The spec marks this as derived.) [60_exceptions.md
section 4 (debug), 45_run_control.md section 3] -/
def Obligations.RunControlDoesNotChangeTheProgram : Prop :=
  (∀ (n : Nat) (s t u : State), s.programView = t.programView → processorRun n s = .next u →
    ∃ v, processorRun n t = .next v ∧ v.programView = u.programView) ∧
  ∀ (n : Nat) (s t : State), (s.status = .empty → HostRequest.initMachine ∉ s.hostQueue) →
    (∀ a v, HostRequest.hostWrite a v ∉ s.hostQueue) → machineRun n s = .next t →
    ∃ k u, k ≤ n ∧ processorRun k s = .next u ∧ t.programView = u.programView

/-- From every state in which memory and the breakpoint set are in canonical form, no unallocated cell is listed, there
are at most 2097152 regions, and there is no region exactly in Empty, a step that leaves a next state leaves one of
which the same holds. [10_state.md sections 5 and 6, 20_memory.md section 1] -/
def Obligations.StepKeepsTheInvariant : Prop :=
  ∀ s t : State, s.Inv → step s = .next t → t.Inv

/-- At reset status is Empty, region_count 0, ip, bus, A, B, hi, lo 0, mode int, cmp 0, fault None with fault_ip and
fault_info 0, no breakpoint, breakpoints enabled, every address unallocated and reading 0; and the invariant holds.
All but the status and the absent regions is the spec's decision D19. [10_state.md section 8 (decision D19),
70_reset_and_hazards.md section 1] -/
def Obligations.ResetMeetsTheInvariantAndValues : Prop :=
  State.reset.status = .empty ∧ State.reset.regionCount = 0 ∧ State.reset.ip = 0 ∧ State.reset.bus = 0 ∧
  State.reset.mode = .int ∧ State.reset.latchA = 0 ∧ State.reset.latchB = 0 ∧ State.reset.hi = 0 ∧
  State.reset.lo = 0 ∧ State.reset.cmp.toInt = 0 ∧ State.reset.fault = .none ∧ State.reset.faultIp = 0 ∧
  State.reset.faultInfo = 0 ∧ State.reset.bpSet = [] ∧ State.reset.bpEnabled = true ∧
  (∀ a, State.reset.allocated a = false ∧ State.reset.memRead a = 0) ∧ State.reset.Inv

/-- Over a step of the machine that leaves a next state, the state without status, bp_set, bp_enabled, the host's waiting
requests and the ports' log is left as it is; or the step ran one of the Processor and leaves it as the Processor's
step does; or an initialize request was taken in Empty, or a host write of an allocated cell outside continue_. So
continue_ itself, a breakpoint match, breakpoint edits and queries do not change what a program computes with.
[60_exceptions.md section 4 (debug), 45_run_control.md sections 3 and 5] -/
def Obligations.EachStepIsTheProgramsOrAHostsWrite : Prop :=
  ∀ s t : State, step s = .next t →
    t.programView = s.programView ∨
    (s.runsProcessor ∧ ∃ u, processorStep s = .next u ∧ t.programView = u.programView) ∨
    (s.status = .empty ∧ s.hostQueue.head? = some .initMachine) ∨
    (s.status ≠ .running ∧ ∃ a v, s.hostQueue.head? = some (.hostWrite a v) ∧ s.allocated a = true)

/-- For a start that is not Halted: (a) where the program has finished, fault, fault_ip and fault_info are as at its
start, whatever an earlier fault left there; where it has failed, a fault is recorded; and it has not both finished
and failed. (b) Any run of the machine from the start that ends Halted has finished or failed; with no fault at the
start it has finished exactly if there is none at the end. (c) Inside continue_ with no enabled breakpoint at ip, HALT
finishes the program and an opcode word of 25 or more fails it, with any older fault still in the registers. A fault
that writes the same values again counts as new (DEDUCED, notes/assumptions/12.md). [45_run_control.md section 6,
60_exceptions.md section 3] -/
def Obligations.ProgramsFinishOrFail : Prop :=
  (∀ start t : State,
    (start.finished t → t.fault = start.fault ∧ t.faultIp = start.faultIp ∧ t.faultInfo = start.faultInfo) ∧
    (start.failed t → t.fault ≠ .none) ∧ ¬ (start.finished t ∧ start.failed t)) ∧
  (∀ (n : Nat) (start t : State), start.status ≠ .halted → machineRun n start = .next t → t.status = .halted →
    (start.finished t ∨ start.failed t) ∧ (start.fault = .none → (start.finished t ↔ t.fault = .none))) ∧
  (∀ s : State, s.status = .running → (s.bpEnabled = false ∨ s.ip ∉ s.bpSet) →
    (s.memRead s.ip = 16 → ∃ t, step s = .next t ∧ s.finished t) ∧
    (25 ≤ (s.memRead s.ip).toNat → ∃ t, step s = .next t ∧ s.failed t))
end

