-- ==== Sys2Proof/Laws/Memory.lean ====
section
/-! SUPPORT. Memory and the breakpoint set: what a read gives after each operation, and that every operation keeps the
canonical form. -/

namespace Sys2Proof.Machine

@[simp] theorem Memory.read_nil (a : Nat) : Memory.read [] a = 0 := rfl

theorem Memory.read_cons (b : Nat) (w : Word) (m : Memory) (a : Nat) :
    Memory.read ((b, w) :: m) a = if a = b then w else Memory.read m a := rfl

/-- An address no pair is listed for reads as 0. -/
theorem Memory.read_of_unlisted (m : Memory) (a : Nat) (h : ∀ c ∈ m, c.1 ≠ a) : Memory.read m a = 0 := by
  induction m with
  | nil => rfl
  | cons c m ih =>
    obtain ⟨b, w⟩ := c
    have hb : a ≠ b := fun e => h (b, w) (by simp) e.symm
    rw [Memory.read_cons, if_neg hb]
    exact ih fun c hc => h c (by simp [hc])

/-- A filter on addresses keeps the reads of the addresses it keeps. -/
theorem Memory.read_filter (m : Memory) (p : Nat → Bool) (a : Nat) :
    Memory.read (m.filter fun c => p c.1) a = if p a then Memory.read m a else 0 := by
  induction m with
  | nil => simp
  | cons c m ih =>
    obtain ⟨b, w⟩ := c
    by_cases hab : a = b
    · subst hab
      cases hp : p a <;> simp [hp, ih, Memory.read_cons]
    · cases hp : p b <;> simp [hp, ih, Memory.read_cons, hab]

/-- Inserting at an address no pair is listed for changes the read of that address only. -/
theorem Memory.read_insert (m : Memory) (a b : Nat) (v : Word) (h : ∀ c ∈ m, c.1 ≠ a) :
    Memory.read (Memory.insert a v m) b = if b = a then v else Memory.read m b := by
  induction m with
  | nil => simp [Memory.insert, Memory.read_cons]
  | cons c m ih =>
    obtain ⟨x, w⟩ := c
    have hx : x ≠ a := h (x, w) (by simp)
    simp only [Memory.insert]
    split
    · simp [Memory.read_cons]
    · rw [Memory.read_cons, Memory.read_cons, ih fun c hc => h c (by simp [hc])]
      by_cases hb : b = a
      · subst hb; simp [Ne.symm hx]
      · simp [hb]

/-- Everything a write can do to a read: the address written reads as the value, every other address as before. -/
theorem Memory.read_write (m : Memory) (a b : Nat) (v : Word) :
    Memory.read (Memory.write m a v) b = if b = a then v else Memory.read m b := by
  have hf := Memory.read_filter m (fun x => decide (x ≠ a)) b
  have hl : ∀ c ∈ m.filter (fun c => decide (c.1 ≠ a)), c.1 ≠ a := by
    intro c hc; simpa using (List.mem_filter.mp hc).2
  unfold Memory.write
  by_cases hv : v = 0
  · subst hv
    simp only [if_true]
    rw [hf]
    by_cases hb : b = a <;> simp [hb]
  · simp only [hv, if_false]
    rw [Memory.read_insert _ _ _ _ hl, hf]
    by_cases hb : b = a <;> simp [hb]

/-- Everything a clear can do to a read: an address of `[lo, hi)` reads as 0, every other address as before. -/
theorem Memory.read_clear (m : Memory) (lo hi a : Nat) :
    Memory.read (Memory.clear m lo hi) a = if lo ≤ a ∧ a < hi then 0 else Memory.read m a := by
  have hf := Memory.read_filter m (fun x => decide (x < lo ∨ hi ≤ x)) a
  unfold Memory.clear
  rw [hf]
  by_cases h : lo ≤ a ∧ a < hi
  · have : ¬ (a < lo ∨ hi ≤ a) := by omega
    simp [h, this]
  · have : a < lo ∨ hi ≤ a := by omega
    simp [h, this]

/-! ### The canonical form -/

/-- The canonical form in the library's terms: addresses strictly rising, and no zero word. -/
theorem Memory.wf_iff (m : Memory) :
    Memory.wf m = true ↔ m.Pairwise (fun c d => c.1 < d.1) ∧ ∀ c ∈ m, c.2 ≠ 0 := by
  induction m with
  | nil => simp [Memory.wf]
  | cons c m ih =>
    obtain ⟨a, v⟩ := c
    cases m with
    | nil => simp [Memory.wf]
    | cons d m =>
      obtain ⟨b, w⟩ := d
      simp only [Memory.wf, Bool.and_eq_true, bne_iff_ne, decide_eq_true_eq, ih]
      constructor
      · rintro ⟨⟨hv, hab⟩, hp, hz⟩
        refine ⟨List.pairwise_cons.mpr ⟨?_, hp⟩, ?_⟩
        · intro c hc
          rcases List.mem_cons.mp hc with rfl | hc
          · exact hab
          · exact lt_trans hab ((List.pairwise_cons.mp hp).1 c hc)
        · intro c hc
          rcases List.mem_cons.mp hc with rfl | hc
          · exact hv
          · exact hz c hc
      · rintro ⟨hp, hz⟩
        obtain ⟨h1, h2⟩ := List.pairwise_cons.mp hp
        exact ⟨⟨hz (a, v) (by simp), h1 (b, w) (by simp)⟩, h2, fun c hc => hz c (by simp [hc])⟩

/-- A filter keeps the canonical form. -/
theorem Memory.wf_filter (m : Memory) (p : Nat × Word → Bool) (h : Memory.wf m = true) :
    Memory.wf (m.filter p) = true := by
  obtain ⟨hp, hz⟩ := (Memory.wf_iff m).mp h
  exact (Memory.wf_iff _).mpr ⟨hp.filter p, fun c hc => hz c (List.mem_filter.mp hc).1⟩

/-- The pairs after an insertion. -/
theorem Memory.mem_insert (m : Memory) (a : Nat) (v : Word) (c : Nat × Word) :
    c ∈ Memory.insert a v m ↔ c = (a, v) ∨ c ∈ m := by
  induction m with
  | nil => simp [Memory.insert]
  | cons d m ih =>
    obtain ⟨b, w⟩ := d
    simp only [Memory.insert]
    split
    · simp
    · simp only [List.mem_cons, ih]; tauto

/-- Inserting a word that is not 0 at an address no pair is listed for keeps the canonical form. -/
theorem Memory.wf_insert (m : Memory) (a : Nat) (v : Word) (h : Memory.wf m = true) (hv : v ≠ 0)
    (hl : ∀ c ∈ m, c.1 ≠ a) : Memory.wf (Memory.insert a v m) = true := by
  obtain ⟨hp, hz⟩ := (Memory.wf_iff m).mp h
  refine (Memory.wf_iff _).mpr ⟨?_, ?_⟩
  · clear h hz
    induction m with
    | nil => simp [Memory.insert]
    | cons d m ih =>
      obtain ⟨b, w⟩ := d
      obtain ⟨h1, h2⟩ := List.pairwise_cons.mp hp
      have hb : b ≠ a := hl (b, w) (by simp)
      simp only [Memory.insert]
      split
      · rename_i hab
        refine List.pairwise_cons.mpr ⟨?_, hp⟩
        intro c hc
        rcases List.mem_cons.mp hc with rfl | hc
        · exact hab
        · exact lt_trans hab (h1 c hc)
      · refine List.pairwise_cons.mpr ⟨?_, ih (fun c hc => hl c (by simp [hc])) h2⟩
        intro c hc
        rcases (Memory.mem_insert m a v c).mp hc with rfl | hc
        · show b < a; omega
        · exact h1 c hc
  · intro c hc
    rcases (Memory.mem_insert m a v c).mp hc with rfl | hc
    · exact hv
    · exact hz c hc

/-- A write keeps the canonical form. -/
theorem Memory.wf_write (m : Memory) (a : Nat) (v : Word) (h : Memory.wf m = true) :
    Memory.wf (Memory.write m a v) = true := by
  have hf : Memory.wf (m.filter fun c => decide (c.1 ≠ a)) = true := Memory.wf_filter m _ h
  unfold Memory.write
  by_cases hv : v = 0
  · simpa [hv] using hf
  · simp only [hv, if_false]
    exact Memory.wf_insert _ a v hf hv fun c hc => by simpa using (List.mem_filter.mp hc).2

/-- A clear keeps the canonical form. -/
theorem Memory.wf_clear (m : Memory) (lo hi : Nat) (h : Memory.wf m = true) :
    Memory.wf (Memory.clear m lo hi) = true := Memory.wf_filter m _ h

/-- A pair listed after a write was listed before, or is the one written. -/
theorem Memory.mem_write (m : Memory) (a : Nat) (v : Word) (c : Nat × Word) (h : c ∈ Memory.write m a v) :
    c = (a, v) ∨ c ∈ m := by
  unfold Memory.write at h
  by_cases hv : v = 0
  · simp only [hv, if_true] at h
    exact .inr (List.mem_filter.mp h).1
  · simp only [hv, if_false] at h
    rcases (Memory.mem_insert _ a v c).mp h with h | h
    · exact .inl h
    · exact .inr (List.mem_filter.mp h).1

/-- A pair listed after a clear was listed before, and lies outside the range. -/
theorem Memory.mem_clear (m : Memory) (lo hi : Nat) (c : Nat × Word) (h : c ∈ Memory.clear m lo hi) :
    c ∈ m ∧ (c.1 < lo ∨ hi ≤ c.1) := by
  obtain ⟨h1, h2⟩ := List.mem_filter.mp h
  exact ⟨h1, by simpa using h2⟩

/-! ### The breakpoint set -/

/-- The canonical form of the breakpoint set in the library's terms. -/
theorem bpSorted_iff (bs : List Word) : bpSorted bs = true ↔ bs.Pairwise fun a b => a.toNat < b.toNat := by
  induction bs with
  | nil => simp [bpSorted]
  | cons a bs ih =>
    cases bs with
    | nil => simp [bpSorted]
    | cons b bs =>
      simp only [bpSorted, Bool.and_eq_true, decide_eq_true_eq, ih]
      constructor
      · rintro ⟨hab, hp⟩
        refine List.pairwise_cons.mpr ⟨?_, hp⟩
        intro c hc
        rcases List.mem_cons.mp hc with rfl | hc
        · exact hab
        · exact lt_trans hab ((List.pairwise_cons.mp hp).1 c hc)
      · intro hp
        obtain ⟨h1, h2⟩ := List.pairwise_cons.mp hp
        exact ⟨h1 b (by simp), h2⟩

/-- Removing an address keeps the canonical form. -/
theorem bpSorted_remove (a : Word) (bs : List Word) (h : bpSorted bs = true) : bpSorted (bpRemove a bs) = true :=
  (bpSorted_iff _).mpr (((bpSorted_iff bs).mp h).filter _)

/-- The members after a sorted insertion. -/
theorem mem_bpInsertSorted (a c : Word) (bs : List Word) : c ∈ bpInsertSorted a bs ↔ c = a ∨ c ∈ bs := by
  induction bs with
  | nil => simp [bpInsertSorted]
  | cons b bs ih =>
    simp only [bpInsertSorted]
    split
    · simp
    · simp only [List.mem_cons, ih]; tauto

/-- Inserting an address keeps the canonical form. -/
theorem bpSorted_insert (a : Word) (bs : List Word) (h : bpSorted bs = true) : bpSorted (bpInsert a bs) = true := by
  have hl : ∀ c ∈ bpRemove a bs, c ≠ a := fun c hc => by simpa using (List.mem_filter.mp hc).2
  have hp := (bpSorted_iff _).mp (bpSorted_remove a bs h)
  refine (bpSorted_iff _).mpr ?_
  unfold bpInsert
  generalize bpRemove a bs = l at hl hp
  clear h
  induction l with
  | nil => simp [bpInsertSorted]
  | cons b l ih =>
    obtain ⟨h1, h2⟩ := List.pairwise_cons.mp hp
    have hb : b ≠ a := hl b (by simp)
    simp only [bpInsertSorted]
    split
    · rename_i hab
      refine List.pairwise_cons.mpr ⟨?_, hp⟩
      intro c hc
      rcases List.mem_cons.mp hc with rfl | hc
      · exact hab
      · exact lt_trans hab (h1 c hc)
    · refine List.pairwise_cons.mpr ⟨?_, ih (fun c hc => hl c (by simp [hc])) h2⟩
      intro c hc
      rcases (mem_bpInsertSorted a c l).mp hc with rfl | hc
      · have : b.toNat ≠ c.toNat := fun e => hb (BitVec.eq_of_toNat_eq e)
        omega
      · exact h1 c hc

end Sys2Proof.Machine
end

