-- ==== Sys2Proof/Laws/State.lean ====
section
/-! SUPPORT. One lemma per field per update of State: what each named update leaves in each field. Every one is true by
rfl and tagged @[simp], so that no later proof unfolds a record update. -/

namespace Sys2Proof.Machine

variable (s : State)

/-! ### setCell -/

@[simp] theorem State.setCell_bus (a v : Word) : (s.setCell a v).bus = s.bus := rfl
@[simp] theorem State.setCell_ip (a v : Word) : (s.setCell a v).ip = s.ip := rfl
@[simp] theorem State.setCell_status (a v : Word) : (s.setCell a v).status = s.status := rfl
@[simp] theorem State.setCell_fault (a v : Word) : (s.setCell a v).fault = s.fault := rfl
@[simp] theorem State.setCell_faultIp (a v : Word) : (s.setCell a v).faultIp = s.faultIp := rfl
@[simp] theorem State.setCell_faultInfo (a v : Word) : (s.setCell a v).faultInfo = s.faultInfo := rfl
@[simp] theorem State.setCell_mode (a v : Word) : (s.setCell a v).mode = s.mode := rfl
@[simp] theorem State.setCell_latchA (a v : Word) : (s.setCell a v).latchA = s.latchA := rfl
@[simp] theorem State.setCell_latchB (a v : Word) : (s.setCell a v).latchB = s.latchB := rfl
@[simp] theorem State.setCell_hi (a v : Word) : (s.setCell a v).hi = s.hi := rfl
@[simp] theorem State.setCell_lo (a v : Word) : (s.setCell a v).lo = s.lo := rfl
@[simp] theorem State.setCell_cmp (a v : Word) : (s.setCell a v).cmp = s.cmp := rfl
@[simp] theorem State.setCell_regionCount (a v : Word) : (s.setCell a v).regionCount = s.regionCount := rfl
@[simp] theorem State.setCell_mem (a v : Word) : (s.setCell a v).mem = Memory.write s.mem a.toNat v := rfl
@[simp] theorem State.setCell_bpSet (a v : Word) : (s.setCell a v).bpSet = s.bpSet := rfl
@[simp] theorem State.setCell_bpEnabled (a v : Word) : (s.setCell a v).bpEnabled = s.bpEnabled := rfl
@[simp] theorem State.setCell_hostQueue (a v : Word) : (s.setCell a v).hostQueue = s.hostQueue := rfl
@[simp] theorem State.setCell_syscallQueue (a v : Word) : (s.setCell a v).syscallQueue = s.syscallQueue := rfl
@[simp] theorem State.setCell_syscallCount (a v : Word) : (s.setCell a v).syscallCount = s.syscallCount := rfl
@[simp] theorem State.setCell_portLog (a v : Word) : (s.setCell a v).portLog = s.portLog := rfl

/-! ### addRegion -/

@[simp] theorem State.addRegion_bus : (s.addRegion).bus = s.bus := rfl
@[simp] theorem State.addRegion_ip : (s.addRegion).ip = s.ip := rfl
@[simp] theorem State.addRegion_status : (s.addRegion).status = s.status := rfl
@[simp] theorem State.addRegion_fault : (s.addRegion).fault = s.fault := rfl
@[simp] theorem State.addRegion_faultIp : (s.addRegion).faultIp = s.faultIp := rfl
@[simp] theorem State.addRegion_faultInfo : (s.addRegion).faultInfo = s.faultInfo := rfl
@[simp] theorem State.addRegion_mode : (s.addRegion).mode = s.mode := rfl
@[simp] theorem State.addRegion_latchA : (s.addRegion).latchA = s.latchA := rfl
@[simp] theorem State.addRegion_latchB : (s.addRegion).latchB = s.latchB := rfl
@[simp] theorem State.addRegion_hi : (s.addRegion).hi = s.hi := rfl
@[simp] theorem State.addRegion_lo : (s.addRegion).lo = s.lo := rfl
@[simp] theorem State.addRegion_cmp : (s.addRegion).cmp = s.cmp := rfl
@[simp] theorem State.addRegion_regionCount : (s.addRegion).regionCount = s.regionCount + 1 := rfl
@[simp] theorem State.addRegion_mem : (s.addRegion).mem = Memory.clear s.mem (s.regionCount * Config.regionSize) ((s.regionCount + 1) * Config.regionSize) := rfl
@[simp] theorem State.addRegion_bpSet : (s.addRegion).bpSet = s.bpSet := rfl
@[simp] theorem State.addRegion_bpEnabled : (s.addRegion).bpEnabled = s.bpEnabled := rfl
@[simp] theorem State.addRegion_hostQueue : (s.addRegion).hostQueue = s.hostQueue := rfl
@[simp] theorem State.addRegion_syscallQueue : (s.addRegion).syscallQueue = s.syscallQueue := rfl
@[simp] theorem State.addRegion_syscallCount : (s.addRegion).syscallCount = s.syscallCount := rfl
@[simp] theorem State.addRegion_portLog : (s.addRegion).portLog = s.portLog := rfl

/-! ### setBus -/

@[simp] theorem State.setBus_bus (v : Word) : (s.setBus v).bus = v := rfl
@[simp] theorem State.setBus_ip (v : Word) : (s.setBus v).ip = s.ip := rfl
@[simp] theorem State.setBus_status (v : Word) : (s.setBus v).status = s.status := rfl
@[simp] theorem State.setBus_fault (v : Word) : (s.setBus v).fault = s.fault := rfl
@[simp] theorem State.setBus_faultIp (v : Word) : (s.setBus v).faultIp = s.faultIp := rfl
@[simp] theorem State.setBus_faultInfo (v : Word) : (s.setBus v).faultInfo = s.faultInfo := rfl
@[simp] theorem State.setBus_mode (v : Word) : (s.setBus v).mode = s.mode := rfl
@[simp] theorem State.setBus_latchA (v : Word) : (s.setBus v).latchA = s.latchA := rfl
@[simp] theorem State.setBus_latchB (v : Word) : (s.setBus v).latchB = s.latchB := rfl
@[simp] theorem State.setBus_hi (v : Word) : (s.setBus v).hi = s.hi := rfl
@[simp] theorem State.setBus_lo (v : Word) : (s.setBus v).lo = s.lo := rfl
@[simp] theorem State.setBus_cmp (v : Word) : (s.setBus v).cmp = s.cmp := rfl
@[simp] theorem State.setBus_regionCount (v : Word) : (s.setBus v).regionCount = s.regionCount := rfl
@[simp] theorem State.setBus_mem (v : Word) : (s.setBus v).mem = s.mem := rfl
@[simp] theorem State.setBus_bpSet (v : Word) : (s.setBus v).bpSet = s.bpSet := rfl
@[simp] theorem State.setBus_bpEnabled (v : Word) : (s.setBus v).bpEnabled = s.bpEnabled := rfl
@[simp] theorem State.setBus_hostQueue (v : Word) : (s.setBus v).hostQueue = s.hostQueue := rfl
@[simp] theorem State.setBus_syscallQueue (v : Word) : (s.setBus v).syscallQueue = s.syscallQueue := rfl
@[simp] theorem State.setBus_syscallCount (v : Word) : (s.setBus v).syscallCount = s.syscallCount := rfl
@[simp] theorem State.setBus_portLog (v : Word) : (s.setBus v).portLog = s.portLog := rfl

/-! ### setIp -/

@[simp] theorem State.setIp_bus (v : Word) : (s.setIp v).bus = s.bus := rfl
@[simp] theorem State.setIp_ip (v : Word) : (s.setIp v).ip = v := rfl
@[simp] theorem State.setIp_status (v : Word) : (s.setIp v).status = s.status := rfl
@[simp] theorem State.setIp_fault (v : Word) : (s.setIp v).fault = s.fault := rfl
@[simp] theorem State.setIp_faultIp (v : Word) : (s.setIp v).faultIp = s.faultIp := rfl
@[simp] theorem State.setIp_faultInfo (v : Word) : (s.setIp v).faultInfo = s.faultInfo := rfl
@[simp] theorem State.setIp_mode (v : Word) : (s.setIp v).mode = s.mode := rfl
@[simp] theorem State.setIp_latchA (v : Word) : (s.setIp v).latchA = s.latchA := rfl
@[simp] theorem State.setIp_latchB (v : Word) : (s.setIp v).latchB = s.latchB := rfl
@[simp] theorem State.setIp_hi (v : Word) : (s.setIp v).hi = s.hi := rfl
@[simp] theorem State.setIp_lo (v : Word) : (s.setIp v).lo = s.lo := rfl
@[simp] theorem State.setIp_cmp (v : Word) : (s.setIp v).cmp = s.cmp := rfl
@[simp] theorem State.setIp_regionCount (v : Word) : (s.setIp v).regionCount = s.regionCount := rfl
@[simp] theorem State.setIp_mem (v : Word) : (s.setIp v).mem = s.mem := rfl
@[simp] theorem State.setIp_bpSet (v : Word) : (s.setIp v).bpSet = s.bpSet := rfl
@[simp] theorem State.setIp_bpEnabled (v : Word) : (s.setIp v).bpEnabled = s.bpEnabled := rfl
@[simp] theorem State.setIp_hostQueue (v : Word) : (s.setIp v).hostQueue = s.hostQueue := rfl
@[simp] theorem State.setIp_syscallQueue (v : Word) : (s.setIp v).syscallQueue = s.syscallQueue := rfl
@[simp] theorem State.setIp_syscallCount (v : Word) : (s.setIp v).syscallCount = s.syscallCount := rfl
@[simp] theorem State.setIp_portLog (v : Word) : (s.setIp v).portLog = s.portLog := rfl

/-! ### setStatus -/

@[simp] theorem State.setStatus_bus (v : Status) : (s.setStatus v).bus = s.bus := rfl
@[simp] theorem State.setStatus_ip (v : Status) : (s.setStatus v).ip = s.ip := rfl
@[simp] theorem State.setStatus_status (v : Status) : (s.setStatus v).status = v := rfl
@[simp] theorem State.setStatus_fault (v : Status) : (s.setStatus v).fault = s.fault := rfl
@[simp] theorem State.setStatus_faultIp (v : Status) : (s.setStatus v).faultIp = s.faultIp := rfl
@[simp] theorem State.setStatus_faultInfo (v : Status) : (s.setStatus v).faultInfo = s.faultInfo := rfl
@[simp] theorem State.setStatus_mode (v : Status) : (s.setStatus v).mode = s.mode := rfl
@[simp] theorem State.setStatus_latchA (v : Status) : (s.setStatus v).latchA = s.latchA := rfl
@[simp] theorem State.setStatus_latchB (v : Status) : (s.setStatus v).latchB = s.latchB := rfl
@[simp] theorem State.setStatus_hi (v : Status) : (s.setStatus v).hi = s.hi := rfl
@[simp] theorem State.setStatus_lo (v : Status) : (s.setStatus v).lo = s.lo := rfl
@[simp] theorem State.setStatus_cmp (v : Status) : (s.setStatus v).cmp = s.cmp := rfl
@[simp] theorem State.setStatus_regionCount (v : Status) : (s.setStatus v).regionCount = s.regionCount := rfl
@[simp] theorem State.setStatus_mem (v : Status) : (s.setStatus v).mem = s.mem := rfl
@[simp] theorem State.setStatus_bpSet (v : Status) : (s.setStatus v).bpSet = s.bpSet := rfl
@[simp] theorem State.setStatus_bpEnabled (v : Status) : (s.setStatus v).bpEnabled = s.bpEnabled := rfl
@[simp] theorem State.setStatus_hostQueue (v : Status) : (s.setStatus v).hostQueue = s.hostQueue := rfl
@[simp] theorem State.setStatus_syscallQueue (v : Status) : (s.setStatus v).syscallQueue = s.syscallQueue := rfl
@[simp] theorem State.setStatus_syscallCount (v : Status) : (s.setStatus v).syscallCount = s.syscallCount := rfl
@[simp] theorem State.setStatus_portLog (v : Status) : (s.setStatus v).portLog = s.portLog := rfl

/-! ### setMode -/

@[simp] theorem State.setMode_bus (v : Mode) : (s.setMode v).bus = s.bus := rfl
@[simp] theorem State.setMode_ip (v : Mode) : (s.setMode v).ip = s.ip := rfl
@[simp] theorem State.setMode_status (v : Mode) : (s.setMode v).status = s.status := rfl
@[simp] theorem State.setMode_fault (v : Mode) : (s.setMode v).fault = s.fault := rfl
@[simp] theorem State.setMode_faultIp (v : Mode) : (s.setMode v).faultIp = s.faultIp := rfl
@[simp] theorem State.setMode_faultInfo (v : Mode) : (s.setMode v).faultInfo = s.faultInfo := rfl
@[simp] theorem State.setMode_mode (v : Mode) : (s.setMode v).mode = v := rfl
@[simp] theorem State.setMode_latchA (v : Mode) : (s.setMode v).latchA = s.latchA := rfl
@[simp] theorem State.setMode_latchB (v : Mode) : (s.setMode v).latchB = s.latchB := rfl
@[simp] theorem State.setMode_hi (v : Mode) : (s.setMode v).hi = s.hi := rfl
@[simp] theorem State.setMode_lo (v : Mode) : (s.setMode v).lo = s.lo := rfl
@[simp] theorem State.setMode_cmp (v : Mode) : (s.setMode v).cmp = s.cmp := rfl
@[simp] theorem State.setMode_regionCount (v : Mode) : (s.setMode v).regionCount = s.regionCount := rfl
@[simp] theorem State.setMode_mem (v : Mode) : (s.setMode v).mem = s.mem := rfl
@[simp] theorem State.setMode_bpSet (v : Mode) : (s.setMode v).bpSet = s.bpSet := rfl
@[simp] theorem State.setMode_bpEnabled (v : Mode) : (s.setMode v).bpEnabled = s.bpEnabled := rfl
@[simp] theorem State.setMode_hostQueue (v : Mode) : (s.setMode v).hostQueue = s.hostQueue := rfl
@[simp] theorem State.setMode_syscallQueue (v : Mode) : (s.setMode v).syscallQueue = s.syscallQueue := rfl
@[simp] theorem State.setMode_syscallCount (v : Mode) : (s.setMode v).syscallCount = s.syscallCount := rfl
@[simp] theorem State.setMode_portLog (v : Mode) : (s.setMode v).portLog = s.portLog := rfl

/-! ### setCmp -/

@[simp] theorem State.setCmp_bus (v : CmpResult) : (s.setCmp v).bus = s.bus := rfl
@[simp] theorem State.setCmp_ip (v : CmpResult) : (s.setCmp v).ip = s.ip := rfl
@[simp] theorem State.setCmp_status (v : CmpResult) : (s.setCmp v).status = s.status := rfl
@[simp] theorem State.setCmp_fault (v : CmpResult) : (s.setCmp v).fault = s.fault := rfl
@[simp] theorem State.setCmp_faultIp (v : CmpResult) : (s.setCmp v).faultIp = s.faultIp := rfl
@[simp] theorem State.setCmp_faultInfo (v : CmpResult) : (s.setCmp v).faultInfo = s.faultInfo := rfl
@[simp] theorem State.setCmp_mode (v : CmpResult) : (s.setCmp v).mode = s.mode := rfl
@[simp] theorem State.setCmp_latchA (v : CmpResult) : (s.setCmp v).latchA = s.latchA := rfl
@[simp] theorem State.setCmp_latchB (v : CmpResult) : (s.setCmp v).latchB = s.latchB := rfl
@[simp] theorem State.setCmp_hi (v : CmpResult) : (s.setCmp v).hi = s.hi := rfl
@[simp] theorem State.setCmp_lo (v : CmpResult) : (s.setCmp v).lo = s.lo := rfl
@[simp] theorem State.setCmp_cmp (v : CmpResult) : (s.setCmp v).cmp = v := rfl
@[simp] theorem State.setCmp_regionCount (v : CmpResult) : (s.setCmp v).regionCount = s.regionCount := rfl
@[simp] theorem State.setCmp_mem (v : CmpResult) : (s.setCmp v).mem = s.mem := rfl
@[simp] theorem State.setCmp_bpSet (v : CmpResult) : (s.setCmp v).bpSet = s.bpSet := rfl
@[simp] theorem State.setCmp_bpEnabled (v : CmpResult) : (s.setCmp v).bpEnabled = s.bpEnabled := rfl
@[simp] theorem State.setCmp_hostQueue (v : CmpResult) : (s.setCmp v).hostQueue = s.hostQueue := rfl
@[simp] theorem State.setCmp_syscallQueue (v : CmpResult) : (s.setCmp v).syscallQueue = s.syscallQueue := rfl
@[simp] theorem State.setCmp_syscallCount (v : CmpResult) : (s.setCmp v).syscallCount = s.syscallCount := rfl
@[simp] theorem State.setCmp_portLog (v : CmpResult) : (s.setCmp v).portLog = s.portLog := rfl

/-! ### setHiLo -/

@[simp] theorem State.setHiLo_bus (h l : Word) : (s.setHiLo h l).bus = s.bus := rfl
@[simp] theorem State.setHiLo_ip (h l : Word) : (s.setHiLo h l).ip = s.ip := rfl
@[simp] theorem State.setHiLo_status (h l : Word) : (s.setHiLo h l).status = s.status := rfl
@[simp] theorem State.setHiLo_fault (h l : Word) : (s.setHiLo h l).fault = s.fault := rfl
@[simp] theorem State.setHiLo_faultIp (h l : Word) : (s.setHiLo h l).faultIp = s.faultIp := rfl
@[simp] theorem State.setHiLo_faultInfo (h l : Word) : (s.setHiLo h l).faultInfo = s.faultInfo := rfl
@[simp] theorem State.setHiLo_mode (h l : Word) : (s.setHiLo h l).mode = s.mode := rfl
@[simp] theorem State.setHiLo_latchA (h l : Word) : (s.setHiLo h l).latchA = s.latchA := rfl
@[simp] theorem State.setHiLo_latchB (h l : Word) : (s.setHiLo h l).latchB = s.latchB := rfl
@[simp] theorem State.setHiLo_hi (h l : Word) : (s.setHiLo h l).hi = h := rfl
@[simp] theorem State.setHiLo_lo (h l : Word) : (s.setHiLo h l).lo = l := rfl
@[simp] theorem State.setHiLo_cmp (h l : Word) : (s.setHiLo h l).cmp = s.cmp := rfl
@[simp] theorem State.setHiLo_regionCount (h l : Word) : (s.setHiLo h l).regionCount = s.regionCount := rfl
@[simp] theorem State.setHiLo_mem (h l : Word) : (s.setHiLo h l).mem = s.mem := rfl
@[simp] theorem State.setHiLo_bpSet (h l : Word) : (s.setHiLo h l).bpSet = s.bpSet := rfl
@[simp] theorem State.setHiLo_bpEnabled (h l : Word) : (s.setHiLo h l).bpEnabled = s.bpEnabled := rfl
@[simp] theorem State.setHiLo_hostQueue (h l : Word) : (s.setHiLo h l).hostQueue = s.hostQueue := rfl
@[simp] theorem State.setHiLo_syscallQueue (h l : Word) : (s.setHiLo h l).syscallQueue = s.syscallQueue := rfl
@[simp] theorem State.setHiLo_syscallCount (h l : Word) : (s.setHiLo h l).syscallCount = s.syscallCount := rfl
@[simp] theorem State.setHiLo_portLog (h l : Word) : (s.setHiLo h l).portLog = s.portLog := rfl

/-! ### setHiLo64 -/

@[simp] theorem State.setHiLo64_bus (p : BitVec 64) : (s.setHiLo64 p).bus = s.bus := rfl
@[simp] theorem State.setHiLo64_ip (p : BitVec 64) : (s.setHiLo64 p).ip = s.ip := rfl
@[simp] theorem State.setHiLo64_status (p : BitVec 64) : (s.setHiLo64 p).status = s.status := rfl
@[simp] theorem State.setHiLo64_fault (p : BitVec 64) : (s.setHiLo64 p).fault = s.fault := rfl
@[simp] theorem State.setHiLo64_faultIp (p : BitVec 64) : (s.setHiLo64 p).faultIp = s.faultIp := rfl
@[simp] theorem State.setHiLo64_faultInfo (p : BitVec 64) : (s.setHiLo64 p).faultInfo = s.faultInfo := rfl
@[simp] theorem State.setHiLo64_mode (p : BitVec 64) : (s.setHiLo64 p).mode = s.mode := rfl
@[simp] theorem State.setHiLo64_latchA (p : BitVec 64) : (s.setHiLo64 p).latchA = s.latchA := rfl
@[simp] theorem State.setHiLo64_latchB (p : BitVec 64) : (s.setHiLo64 p).latchB = s.latchB := rfl
@[simp] theorem State.setHiLo64_hi (p : BitVec 64) : (s.setHiLo64 p).hi = p.extractLsb' 32 32 := rfl
@[simp] theorem State.setHiLo64_lo (p : BitVec 64) : (s.setHiLo64 p).lo = p.extractLsb' 0 32 := rfl
@[simp] theorem State.setHiLo64_cmp (p : BitVec 64) : (s.setHiLo64 p).cmp = s.cmp := rfl
@[simp] theorem State.setHiLo64_regionCount (p : BitVec 64) : (s.setHiLo64 p).regionCount = s.regionCount := rfl
@[simp] theorem State.setHiLo64_mem (p : BitVec 64) : (s.setHiLo64 p).mem = s.mem := rfl
@[simp] theorem State.setHiLo64_bpSet (p : BitVec 64) : (s.setHiLo64 p).bpSet = s.bpSet := rfl
@[simp] theorem State.setHiLo64_bpEnabled (p : BitVec 64) : (s.setHiLo64 p).bpEnabled = s.bpEnabled := rfl
@[simp] theorem State.setHiLo64_hostQueue (p : BitVec 64) : (s.setHiLo64 p).hostQueue = s.hostQueue := rfl
@[simp] theorem State.setHiLo64_syscallQueue (p : BitVec 64) : (s.setHiLo64 p).syscallQueue = s.syscallQueue := rfl
@[simp] theorem State.setHiLo64_syscallCount (p : BitVec 64) : (s.setHiLo64 p).syscallCount = s.syscallCount := rfl
@[simp] theorem State.setHiLo64_portLog (p : BitVec 64) : (s.setHiLo64 p).portLog = s.portLog := rfl

/-! ### pushLatch -/

@[simp] theorem State.pushLatch_bus (v : Word) : (s.pushLatch v).bus = s.bus := rfl
@[simp] theorem State.pushLatch_ip (v : Word) : (s.pushLatch v).ip = s.ip := rfl
@[simp] theorem State.pushLatch_status (v : Word) : (s.pushLatch v).status = s.status := rfl
@[simp] theorem State.pushLatch_fault (v : Word) : (s.pushLatch v).fault = s.fault := rfl
@[simp] theorem State.pushLatch_faultIp (v : Word) : (s.pushLatch v).faultIp = s.faultIp := rfl
@[simp] theorem State.pushLatch_faultInfo (v : Word) : (s.pushLatch v).faultInfo = s.faultInfo := rfl
@[simp] theorem State.pushLatch_mode (v : Word) : (s.pushLatch v).mode = s.mode := rfl
@[simp] theorem State.pushLatch_latchA (v : Word) : (s.pushLatch v).latchA = v := rfl
@[simp] theorem State.pushLatch_latchB (v : Word) : (s.pushLatch v).latchB = s.latchA := rfl
@[simp] theorem State.pushLatch_hi (v : Word) : (s.pushLatch v).hi = s.hi := rfl
@[simp] theorem State.pushLatch_lo (v : Word) : (s.pushLatch v).lo = s.lo := rfl
@[simp] theorem State.pushLatch_cmp (v : Word) : (s.pushLatch v).cmp = s.cmp := rfl
@[simp] theorem State.pushLatch_regionCount (v : Word) : (s.pushLatch v).regionCount = s.regionCount := rfl
@[simp] theorem State.pushLatch_mem (v : Word) : (s.pushLatch v).mem = s.mem := rfl
@[simp] theorem State.pushLatch_bpSet (v : Word) : (s.pushLatch v).bpSet = s.bpSet := rfl
@[simp] theorem State.pushLatch_bpEnabled (v : Word) : (s.pushLatch v).bpEnabled = s.bpEnabled := rfl
@[simp] theorem State.pushLatch_hostQueue (v : Word) : (s.pushLatch v).hostQueue = s.hostQueue := rfl
@[simp] theorem State.pushLatch_syscallQueue (v : Word) : (s.pushLatch v).syscallQueue = s.syscallQueue := rfl
@[simp] theorem State.pushLatch_syscallCount (v : Word) : (s.pushLatch v).syscallCount = s.syscallCount := rfl
@[simp] theorem State.pushLatch_portLog (v : Word) : (s.pushLatch v).portLog = s.portLog := rfl

/-! ### advance -/

@[simp] theorem State.advance_bus (k : Nat) : (s.advance k).bus = s.bus := rfl
@[simp] theorem State.advance_ip (k : Nat) : (s.advance k).ip = w32 (unsigned s.ip + k + 1) := rfl
@[simp] theorem State.advance_status (k : Nat) : (s.advance k).status = s.status := rfl
@[simp] theorem State.advance_fault (k : Nat) : (s.advance k).fault = s.fault := rfl
@[simp] theorem State.advance_faultIp (k : Nat) : (s.advance k).faultIp = s.faultIp := rfl
@[simp] theorem State.advance_faultInfo (k : Nat) : (s.advance k).faultInfo = s.faultInfo := rfl
@[simp] theorem State.advance_mode (k : Nat) : (s.advance k).mode = s.mode := rfl
@[simp] theorem State.advance_latchA (k : Nat) : (s.advance k).latchA = s.latchA := rfl
@[simp] theorem State.advance_latchB (k : Nat) : (s.advance k).latchB = s.latchB := rfl
@[simp] theorem State.advance_hi (k : Nat) : (s.advance k).hi = s.hi := rfl
@[simp] theorem State.advance_lo (k : Nat) : (s.advance k).lo = s.lo := rfl
@[simp] theorem State.advance_cmp (k : Nat) : (s.advance k).cmp = s.cmp := rfl
@[simp] theorem State.advance_regionCount (k : Nat) : (s.advance k).regionCount = s.regionCount := rfl
@[simp] theorem State.advance_mem (k : Nat) : (s.advance k).mem = s.mem := rfl
@[simp] theorem State.advance_bpSet (k : Nat) : (s.advance k).bpSet = s.bpSet := rfl
@[simp] theorem State.advance_bpEnabled (k : Nat) : (s.advance k).bpEnabled = s.bpEnabled := rfl
@[simp] theorem State.advance_hostQueue (k : Nat) : (s.advance k).hostQueue = s.hostQueue := rfl
@[simp] theorem State.advance_syscallQueue (k : Nat) : (s.advance k).syscallQueue = s.syscallQueue := rfl
@[simp] theorem State.advance_syscallCount (k : Nat) : (s.advance k).syscallCount = s.syscallCount := rfl
@[simp] theorem State.advance_portLog (k : Nat) : (s.advance k).portLog = s.portLog := rfl

/-! ### raise -/

@[simp] theorem State.raise_bus (c : FaultCause) (info : Word) : (s.raise c info).bus = s.bus := rfl
@[simp] theorem State.raise_ip (c : FaultCause) (info : Word) : (s.raise c info).ip = s.ip := rfl
@[simp] theorem State.raise_status (c : FaultCause) (info : Word) : (s.raise c info).status = .halted := rfl
@[simp] theorem State.raise_fault (c : FaultCause) (info : Word) : (s.raise c info).fault = c := rfl
@[simp] theorem State.raise_faultIp (c : FaultCause) (info : Word) : (s.raise c info).faultIp = s.ip := rfl
@[simp] theorem State.raise_faultInfo (c : FaultCause) (info : Word) : (s.raise c info).faultInfo = info := rfl
@[simp] theorem State.raise_mode (c : FaultCause) (info : Word) : (s.raise c info).mode = s.mode := rfl
@[simp] theorem State.raise_latchA (c : FaultCause) (info : Word) : (s.raise c info).latchA = s.latchA := rfl
@[simp] theorem State.raise_latchB (c : FaultCause) (info : Word) : (s.raise c info).latchB = s.latchB := rfl
@[simp] theorem State.raise_hi (c : FaultCause) (info : Word) : (s.raise c info).hi = s.hi := rfl
@[simp] theorem State.raise_lo (c : FaultCause) (info : Word) : (s.raise c info).lo = s.lo := rfl
@[simp] theorem State.raise_cmp (c : FaultCause) (info : Word) : (s.raise c info).cmp = s.cmp := rfl
@[simp] theorem State.raise_regionCount (c : FaultCause) (info : Word) : (s.raise c info).regionCount = s.regionCount := rfl
@[simp] theorem State.raise_mem (c : FaultCause) (info : Word) : (s.raise c info).mem = s.mem := rfl
@[simp] theorem State.raise_bpSet (c : FaultCause) (info : Word) : (s.raise c info).bpSet = s.bpSet := rfl
@[simp] theorem State.raise_bpEnabled (c : FaultCause) (info : Word) : (s.raise c info).bpEnabled = s.bpEnabled := rfl
@[simp] theorem State.raise_hostQueue (c : FaultCause) (info : Word) : (s.raise c info).hostQueue = s.hostQueue := rfl
@[simp] theorem State.raise_syscallQueue (c : FaultCause) (info : Word) : (s.raise c info).syscallQueue = s.syscallQueue := rfl
@[simp] theorem State.raise_syscallCount (c : FaultCause) (info : Word) : (s.raise c info).syscallCount = s.syscallCount := rfl
@[simp] theorem State.raise_portLog (c : FaultCause) (info : Word) : (s.raise c info).portLog = s.portLog := rfl

/-! ### setBpSet -/

@[simp] theorem State.setBpSet_bus (bs : List Word) : (s.setBpSet bs).bus = s.bus := rfl
@[simp] theorem State.setBpSet_ip (bs : List Word) : (s.setBpSet bs).ip = s.ip := rfl
@[simp] theorem State.setBpSet_status (bs : List Word) : (s.setBpSet bs).status = s.status := rfl
@[simp] theorem State.setBpSet_fault (bs : List Word) : (s.setBpSet bs).fault = s.fault := rfl
@[simp] theorem State.setBpSet_faultIp (bs : List Word) : (s.setBpSet bs).faultIp = s.faultIp := rfl
@[simp] theorem State.setBpSet_faultInfo (bs : List Word) : (s.setBpSet bs).faultInfo = s.faultInfo := rfl
@[simp] theorem State.setBpSet_mode (bs : List Word) : (s.setBpSet bs).mode = s.mode := rfl
@[simp] theorem State.setBpSet_latchA (bs : List Word) : (s.setBpSet bs).latchA = s.latchA := rfl
@[simp] theorem State.setBpSet_latchB (bs : List Word) : (s.setBpSet bs).latchB = s.latchB := rfl
@[simp] theorem State.setBpSet_hi (bs : List Word) : (s.setBpSet bs).hi = s.hi := rfl
@[simp] theorem State.setBpSet_lo (bs : List Word) : (s.setBpSet bs).lo = s.lo := rfl
@[simp] theorem State.setBpSet_cmp (bs : List Word) : (s.setBpSet bs).cmp = s.cmp := rfl
@[simp] theorem State.setBpSet_regionCount (bs : List Word) : (s.setBpSet bs).regionCount = s.regionCount := rfl
@[simp] theorem State.setBpSet_mem (bs : List Word) : (s.setBpSet bs).mem = s.mem := rfl
@[simp] theorem State.setBpSet_bpSet (bs : List Word) : (s.setBpSet bs).bpSet = bs := rfl
@[simp] theorem State.setBpSet_bpEnabled (bs : List Word) : (s.setBpSet bs).bpEnabled = s.bpEnabled := rfl
@[simp] theorem State.setBpSet_hostQueue (bs : List Word) : (s.setBpSet bs).hostQueue = s.hostQueue := rfl
@[simp] theorem State.setBpSet_syscallQueue (bs : List Word) : (s.setBpSet bs).syscallQueue = s.syscallQueue := rfl
@[simp] theorem State.setBpSet_syscallCount (bs : List Word) : (s.setBpSet bs).syscallCount = s.syscallCount := rfl
@[simp] theorem State.setBpSet_portLog (bs : List Word) : (s.setBpSet bs).portLog = s.portLog := rfl

/-! ### setBpEnabled -/

@[simp] theorem State.setBpEnabled_bus (b : Bool) : (s.setBpEnabled b).bus = s.bus := rfl
@[simp] theorem State.setBpEnabled_ip (b : Bool) : (s.setBpEnabled b).ip = s.ip := rfl
@[simp] theorem State.setBpEnabled_status (b : Bool) : (s.setBpEnabled b).status = s.status := rfl
@[simp] theorem State.setBpEnabled_fault (b : Bool) : (s.setBpEnabled b).fault = s.fault := rfl
@[simp] theorem State.setBpEnabled_faultIp (b : Bool) : (s.setBpEnabled b).faultIp = s.faultIp := rfl
@[simp] theorem State.setBpEnabled_faultInfo (b : Bool) : (s.setBpEnabled b).faultInfo = s.faultInfo := rfl
@[simp] theorem State.setBpEnabled_mode (b : Bool) : (s.setBpEnabled b).mode = s.mode := rfl
@[simp] theorem State.setBpEnabled_latchA (b : Bool) : (s.setBpEnabled b).latchA = s.latchA := rfl
@[simp] theorem State.setBpEnabled_latchB (b : Bool) : (s.setBpEnabled b).latchB = s.latchB := rfl
@[simp] theorem State.setBpEnabled_hi (b : Bool) : (s.setBpEnabled b).hi = s.hi := rfl
@[simp] theorem State.setBpEnabled_lo (b : Bool) : (s.setBpEnabled b).lo = s.lo := rfl
@[simp] theorem State.setBpEnabled_cmp (b : Bool) : (s.setBpEnabled b).cmp = s.cmp := rfl
@[simp] theorem State.setBpEnabled_regionCount (b : Bool) : (s.setBpEnabled b).regionCount = s.regionCount := rfl
@[simp] theorem State.setBpEnabled_mem (b : Bool) : (s.setBpEnabled b).mem = s.mem := rfl
@[simp] theorem State.setBpEnabled_bpSet (b : Bool) : (s.setBpEnabled b).bpSet = s.bpSet := rfl
@[simp] theorem State.setBpEnabled_bpEnabled (b : Bool) : (s.setBpEnabled b).bpEnabled = b := rfl
@[simp] theorem State.setBpEnabled_hostQueue (b : Bool) : (s.setBpEnabled b).hostQueue = s.hostQueue := rfl
@[simp] theorem State.setBpEnabled_syscallQueue (b : Bool) : (s.setBpEnabled b).syscallQueue = s.syscallQueue := rfl
@[simp] theorem State.setBpEnabled_syscallCount (b : Bool) : (s.setBpEnabled b).syscallCount = s.syscallCount := rfl
@[simp] theorem State.setBpEnabled_portLog (b : Bool) : (s.setBpEnabled b).portLog = s.portLog := rfl

/-! ### emit -/

@[simp] theorem State.emit_bus (e : PortEvent) : (s.emit e).bus = s.bus := rfl
@[simp] theorem State.emit_ip (e : PortEvent) : (s.emit e).ip = s.ip := rfl
@[simp] theorem State.emit_status (e : PortEvent) : (s.emit e).status = s.status := rfl
@[simp] theorem State.emit_fault (e : PortEvent) : (s.emit e).fault = s.fault := rfl
@[simp] theorem State.emit_faultIp (e : PortEvent) : (s.emit e).faultIp = s.faultIp := rfl
@[simp] theorem State.emit_faultInfo (e : PortEvent) : (s.emit e).faultInfo = s.faultInfo := rfl
@[simp] theorem State.emit_mode (e : PortEvent) : (s.emit e).mode = s.mode := rfl
@[simp] theorem State.emit_latchA (e : PortEvent) : (s.emit e).latchA = s.latchA := rfl
@[simp] theorem State.emit_latchB (e : PortEvent) : (s.emit e).latchB = s.latchB := rfl
@[simp] theorem State.emit_hi (e : PortEvent) : (s.emit e).hi = s.hi := rfl
@[simp] theorem State.emit_lo (e : PortEvent) : (s.emit e).lo = s.lo := rfl
@[simp] theorem State.emit_cmp (e : PortEvent) : (s.emit e).cmp = s.cmp := rfl
@[simp] theorem State.emit_regionCount (e : PortEvent) : (s.emit e).regionCount = s.regionCount := rfl
@[simp] theorem State.emit_mem (e : PortEvent) : (s.emit e).mem = s.mem := rfl
@[simp] theorem State.emit_bpSet (e : PortEvent) : (s.emit e).bpSet = s.bpSet := rfl
@[simp] theorem State.emit_bpEnabled (e : PortEvent) : (s.emit e).bpEnabled = s.bpEnabled := rfl
@[simp] theorem State.emit_hostQueue (e : PortEvent) : (s.emit e).hostQueue = s.hostQueue := rfl
@[simp] theorem State.emit_syscallQueue (e : PortEvent) : (s.emit e).syscallQueue = s.syscallQueue := rfl
@[simp] theorem State.emit_syscallCount (e : PortEvent) : (s.emit e).syscallCount = s.syscallCount := rfl
@[simp] theorem State.emit_portLog (e : PortEvent) : (s.emit e).portLog = s.portLog ++ [e] := rfl

/-! ### syscallExchange -/

@[simp] theorem State.syscallExchange_bus (c g : Int) : (s.syscallExchange c g).bus = s.bus := rfl
@[simp] theorem State.syscallExchange_ip (c g : Int) : (s.syscallExchange c g).ip = s.ip := rfl
@[simp] theorem State.syscallExchange_status (c g : Int) : (s.syscallExchange c g).status = s.status := rfl
@[simp] theorem State.syscallExchange_fault (c g : Int) : (s.syscallExchange c g).fault = s.fault := rfl
@[simp] theorem State.syscallExchange_faultIp (c g : Int) : (s.syscallExchange c g).faultIp = s.faultIp := rfl
@[simp] theorem State.syscallExchange_faultInfo (c g : Int) : (s.syscallExchange c g).faultInfo = s.faultInfo := rfl
@[simp] theorem State.syscallExchange_mode (c g : Int) : (s.syscallExchange c g).mode = s.mode := rfl
@[simp] theorem State.syscallExchange_latchA (c g : Int) : (s.syscallExchange c g).latchA = s.latchA := rfl
@[simp] theorem State.syscallExchange_latchB (c g : Int) : (s.syscallExchange c g).latchB = s.latchB := rfl
@[simp] theorem State.syscallExchange_hi (c g : Int) : (s.syscallExchange c g).hi = s.hi := rfl
@[simp] theorem State.syscallExchange_lo (c g : Int) : (s.syscallExchange c g).lo = s.lo := rfl
@[simp] theorem State.syscallExchange_cmp (c g : Int) : (s.syscallExchange c g).cmp = s.cmp := rfl
@[simp] theorem State.syscallExchange_regionCount (c g : Int) : (s.syscallExchange c g).regionCount = s.regionCount := rfl
@[simp] theorem State.syscallExchange_mem (c g : Int) : (s.syscallExchange c g).mem = s.mem := rfl
@[simp] theorem State.syscallExchange_bpSet (c g : Int) : (s.syscallExchange c g).bpSet = s.bpSet := rfl
@[simp] theorem State.syscallExchange_bpEnabled (c g : Int) : (s.syscallExchange c g).bpEnabled = s.bpEnabled := rfl
@[simp] theorem State.syscallExchange_hostQueue (c g : Int) : (s.syscallExchange c g).hostQueue = s.hostQueue := rfl
@[simp] theorem State.syscallExchange_syscallQueue (c g : Int) : (s.syscallExchange c g).syscallQueue = s.syscallQueue.tail := rfl
@[simp] theorem State.syscallExchange_syscallCount (c g : Int) : (s.syscallExchange c g).syscallCount = s.syscallCount + 1 := rfl
@[simp] theorem State.syscallExchange_portLog (c g : Int) : (s.syscallExchange c g).portLog = s.portLog ++ .syscall c g :: s.syscallTurn.requests.map s.answerInSyscall := rfl

end Sys2Proof.Machine
end

