-- ==== Sys2Proof/Laws/Ops.lean ====
section
/-! SUPPORT. One lemma for each shared operation, saying once everything it can do; proofs cite these instead of unfolding
the operation. -/

namespace Sys2Proof.Machine

/-! ### Addresses -/

/-- Adding the unsigned and the signed reading modulo 2^32 is the addition of the words (R101). -/
theorem eaRel_eq_add (ip0 off : Word) : eaRel ip0 off = ip0 + off := by
  unfold eaRel w32 signed unsigned
  rw [BitVec.ofInt_add, BitVec.ofInt_toInt, BitVec.ofInt_natCast, BitVec.ofNat_toNat, BitVec.setWidth_eq]

/-- The end-of-step advance as an addition of words. -/
theorem w32_advance (ip : Word) (k : Nat) : w32 ((unsigned ip : Int) + k + 1) = ip + BitVec.ofNat 32 (k + 1) := by
  apply BitVec.eq_of_toNat_eq
  simp only [w32, unsigned, BitVec.toNat_ofInt, BitVec.toNat_add, BitVec.toNat_ofNat]
  omega

/-- The address after `ip`, as an addition of words. -/
theorem w32_next (ip : Word) : w32 ((unsigned ip : Int) + 1) = ip + 1 := by
  simpa using w32_advance ip 0

theorem advance_zero (s : State) : s.advance 0 = s.setIp (s.ip + 1) := by
  unfold State.advance; rw [w32_advance]; rfl

theorem advance_one (s : State) : s.advance 1 = s.setIp (s.ip + 2) := by
  unfold State.advance; rw [w32_advance]; rfl

theorem eaRelPtr_eq (s : State) (off : Word) : eaRelPtr s off = s.ip + s.memRead (s.ip + off) := by
  simp [eaRelPtr, eaRel_eq_add]

/-! ### Allocation and cells -/

/-- An address is allocated exactly when it lies below the allocated interval's end. -/
theorem allocated_iff (s : State) (a : Word) :
    s.allocated a = true ↔ a.toNat < s.regionCount * Config.regionSize := by
  simp only [State.allocated, decide_eq_true_eq]
  exact Nat.div_lt_iff_lt_mul (by decide)

theorem memRead_unallocated (s : State) (a : Word) (h : s.allocated a = false) : s.memRead a = 0 := by
  simp [State.memRead, h]

theorem memRead_allocated (s : State) (a : Word) (h : s.allocated a = true) :
    s.memRead a = Memory.read s.mem a.toNat := by simp [State.memRead, h]

@[simp] theorem allocated_setCell (s : State) (a b v : Word) : (s.setCell a v).allocated b = s.allocated b := rfl

/-- Reads depend on memory and the region count alone. -/
theorem memRead_congr (s t : State) (a : Word) (hm : t.mem = s.mem) (hr : t.regionCount = s.regionCount) :
    t.memRead a = s.memRead a := by simp [State.memRead, State.allocated, hm, hr]

/-- Everything `setCell` on an allocated address can do to a read. -/
theorem memRead_setCell (s : State) (a b v : Word) (h : s.allocated a = true) :
    (s.setCell a v).memRead b = if b = a then v else s.memRead b := by
  by_cases hb : b = a
  · subst hb
    simp [State.memRead, h, Memory.read_write]
  · have hn : b.toNat ≠ a.toNat := fun e => hb (BitVec.eq_of_toNat_eq e)
    simp [State.memRead, Memory.read_write, hb, hn]

/-- Everything `addRegion` can do to a read: the allocated addresses and the new ones, which read 0 before and after. -/
theorem memRead_addRegion (s : State) (a : Word) : s.addRegion.memRead a = s.memRead a := by
  have h1 := allocated_iff s a
  have h2 := allocated_iff s.addRegion a
  simp only [State.addRegion_regionCount] at h2
  by_cases hs : s.allocated a = true
  · have hlt := h1.mp hs
    have hn : s.addRegion.allocated a = true := h2.mpr (by simp [Nat.add_mul]; omega)
    rw [memRead_allocated _ _ hs, memRead_allocated _ _ hn, State.addRegion_mem, Memory.read_clear]
    rw [if_neg (by omega)]
  · have hs' : s.allocated a = false := by simpa using hs
    rw [memRead_unallocated _ _ hs']
    by_cases hn : s.addRegion.allocated a = true
    · have hge : ¬ a.toNat < s.regionCount * Config.regionSize := fun h => hs (h1.mpr h)
      rw [memRead_allocated _ _ hn, State.addRegion_mem, Memory.read_clear, if_pos ⟨by omega, h2.mp hn⟩]
    · exact memRead_unallocated _ _ (by simpa using hn)

/-- Everything a store can do: the cell and the advance, or the fault of R282 and nothing else. -/
theorem store_cases (s : State) (a v : Word) :
    (s.allocated a = true ∧ s.store a v = (s.setCell a v).advance 1) ∨
      (s.allocated a = false ∧ s.store a v = s.raise .regionFault a) := by
  cases h : s.allocated a <;> simp [State.store, h]

/-! ### Stepping -/

/-- Everything the Processor's step can do: run the decoded instruction, or take `InvalidInstruction`. -/
theorem processorStep_cases (s : State) :
    (∃ i rest, decode s.fetchWords = .ok i rest ∧ processorStep s = exec i s) ∨
      (∃ e, decode s.fetchWords = .error e ∧
        processorStep s = .next (s.raise .invalidInstruction (s.memRead s.ip))) := by
  cases h : decode s.fetchWords with
  | ok i rest => exact .inl ⟨i, rest, rfl, by simp [processorStep, h]⟩
  | error e => exact .inr ⟨e, rfl, by simp [processorStep, h]⟩

/-- Everything the guarded step can do: stop before the instruction at a breakpoint, or take the Processor's step. -/
theorem guardedStep_cases (s : State) :
    (s.atBreakpoint = true ∧ guardedStep s = .next (s.setStatus .paused)) ∨
      (s.atBreakpoint = false ∧ guardedStep s = processorStep s) := by
  cases h : s.atBreakpoint <;> simp [guardedStep, h]

/-- Everything `step_over` can do, when it leaves a next state. -/
theorem stepOverCommand_cases (s t : State) (h : stepOverCommand s = .next t) :
    (s.status = .paused ∧ guardedStep s = .next t) ∨
      (s.status = .notStarted ∧ ∃ u, guardedStep s = .next u ∧ t = u.setStatus .paused) ∨
      (s.status ≠ .paused ∧ s.status ≠ .notStarted ∧ t = s) := by
  unfold stepOverCommand at h
  split at h
  · exact .inl ⟨‹_›, h⟩
  · split at h
    · exact .inr (.inl ⟨‹_›, _, ‹_›, (Host.Outcome.next.inj h).symm⟩)
    · cases h
    · cases h
  all_goals
    exact .inr (.inr ⟨by simp [*], by simp [*], (Host.Outcome.next.inj h).symm⟩)

/-- Everything a step of the machine can do: a guarded step inside `continue_`, the host's next request outside it, or
nothing where none waits. -/
theorem step_cases (s : State) :
    (s.status = .running ∧ step s = guardedStep s) ∨
      (s.status ≠ .running ∧ s.hostQueue = [] ∧ step s = .next s) ∨
      (s.status ≠ .running ∧ ∃ r rest, s.hostQueue = r :: rest ∧ step s = hostRequest r { s with hostQueue := rest }) := by
  unfold step machineStep
  cases hs : s.status <;> cases hq : s.hostQueue <;> simp

end Sys2Proof.Machine
end

