-- ==== Sys2Proof/Laws/PerInstr.lean ====
section
/-! SUPPORT. The family EncodedShape, per instruction: an instruction is encoded in one opcode word, its own, and as many
operand words as its opcode consumes (R91, R94, R96). -/

namespace Sys2Proof.Laws

/-- The instruction is well formed, and its words are its opcode's word and `k` more. -/
def EncodedShape.Statement (i : Instr) : Prop :=
  i.wellFormed = true ∧ (encode i).head? = some (opcodeMap i.opcode) ∧
    (encode i).length = 1 + i.opcode.operandCount

theorem EncodedShape.nop : EncodedShape.Statement .nop := ⟨rfl, rfl, rfl⟩
theorem EncodedShape.ldrp (off : Word) : EncodedShape.Statement (.ldrp off) := ⟨rfl, rfl, rfl⟩
theorem EncodedShape.strp (off : Word) : EncodedShape.Statement (.strp off) := ⟨rfl, rfl, rfl⟩
theorem EncodedShape.ldr (off : Word) : EncodedShape.Statement (.ldr off) := ⟨rfl, rfl, rfl⟩
theorem EncodedShape.str (off : Word) : EncodedShape.Statement (.str off) := ⟨rfl, rfl, rfl⟩
theorem EncodedShape.push : EncodedShape.Statement .push := ⟨rfl, rfl, rfl⟩
theorem EncodedShape.add : EncodedShape.Statement .add := ⟨rfl, rfl, rfl⟩
theorem EncodedShape.neg : EncodedShape.Statement .neg := ⟨rfl, rfl, rfl⟩
theorem EncodedShape.mul : EncodedShape.Statement .mul := ⟨rfl, rfl, rfl⟩
theorem EncodedShape.div : EncodedShape.Statement .div := ⟨rfl, rfl, rfl⟩
theorem EncodedShape.jmp : EncodedShape.Statement .jmp := ⟨rfl, rfl, rfl⟩
theorem EncodedShape.jgt (off : Word) : EncodedShape.Statement (.jgt off) := ⟨rfl, rfl, rfl⟩
theorem EncodedShape.jlt (off : Word) : EncodedShape.Statement (.jlt off) := ⟨rfl, rfl, rfl⟩
theorem EncodedShape.jeq (off : Word) : EncodedShape.Statement (.jeq off) := ⟨rfl, rfl, rfl⟩
theorem EncodedShape.grow : EncodedShape.Statement .grow := ⟨rfl, rfl, rfl⟩
theorem EncodedShape.sys (arg : Word) : EncodedShape.Statement (.sys arg) := ⟨rfl, rfl, rfl⟩
theorem EncodedShape.halt : EncodedShape.Statement .halt := ⟨rfl, rfl, rfl⟩
theorem EncodedShape.pause : EncodedShape.Statement .pause := ⟨rfl, rfl, rfl⟩
theorem EncodedShape.lda (addr : Word) : EncodedShape.Statement (.lda addr) := ⟨rfl, rfl, rfl⟩
theorem EncodedShape.sta (addr : Word) : EncodedShape.Statement (.sta addr) := ⟨rfl, rfl, rfl⟩
theorem EncodedShape.ldi (imm : Word) : EncodedShape.Statement (.ldi imm) := ⟨rfl, rfl, rfl⟩
theorem EncodedShape.fmode : EncodedShape.Statement .fmode := ⟨rfl, rfl, rfl⟩
theorem EncodedShape.imode : EncodedShape.Statement .imode := ⟨rfl, rfl, rfl⟩
theorem EncodedShape.mflo : EncodedShape.Statement .mflo := ⟨rfl, rfl, rfl⟩
theorem EncodedShape.mfhi : EncodedShape.Statement .mfhi := ⟨rfl, rfl, rfl⟩

end Sys2Proof.Laws
end

