-- ==== Sys2Proof/Laws/Runs.lean ====
section
/-! SUPPORT. One lemma for each of the terms of Safety.lean that a proof about runs needs: what a run of one more step is,
when no breakpoint stops a step, and when a step records a fault. -/

namespace Sys2Proof.Machine

@[simp] theorem runSteps_zero (f : State → Host.Outcome State Fault Refusal) (s : State) : runSteps f 0 s = .next s := rfl

/-- A run of one more step leaves a next state exactly if its first step does and the rest does from there. -/
theorem runSteps_succ_next (f : State → Host.Outcome State Fault Refusal) (n : Nat) (s u : State) :
    runSteps f (n + 1) s = .next u ↔ ∃ t, f s = .next t ∧ runSteps f n t = .next u := by
  rw [runSteps]
  cases f s <;> simp

/-- An enabled breakpoint stands at `ip`, as a statement about the set. -/
theorem atBreakpoint_iff (s : State) : s.atBreakpoint = true ↔ s.bpEnabled = true ∧ s.ip ∈ s.bpSet := by
  simp [State.atBreakpoint]

/-- When the machine's next step records a fault. -/
theorem recordsFault_iff (s : State) :
    s.recordsFault = true ↔
      s.runsProcessor ∧ ∃ t, processorStep s = .next t ∧ t.fault ≠ .none ∧ t = s.raise t.fault t.faultInfo := by
  rw [State.recordsFault, Bool.and_eq_true, decide_eq_true_iff]
  cases processorStep s <;> simp

/-- No step from a `Halted` state records a fault. -/
theorem recordsFault_halted (s : State) (h : s.status = .halted) : s.recordsFault = false := by
  simp [State.recordsFault, h]

end Sys2Proof.Machine
end

