-- ==== Sys2Proof/Tests/Slice0.lean ====
section
/-! SUPPORT. Tests on fixed values: the smoke test of WellFormed, a written word for every instruction's decoding, one step
on a small state for every instruction (the vectors of spec/95_test_vectors.md, part 2, named in each comment), and for every
statement with hypotheses a state and operands that meet them, for each clause. -/

namespace Sys2Proof.Tests

open Sys2Proof.Machine

/-- A running machine with one region, no breakpoint, and these cells, about to execute at `ip`. -/
def runAt (ip : Word) (cells : Memory) : State :=
  { State.reset with status := .running, regionCount := 1, ip := ip, mem := cells }

/-- What a function reads in the next state. -/
def after {α : Type} (o : Host.Outcome State Fault Refusal) (f : State → α) : Option α :=
  match o with
  | .next t => some (f t)
  | .fault _ => none
  | .refused _ => none

/-! ### WellFormed -/

theorem test_wellFormed_accepts : (RawInstr.wellFormed ⟨.ldi, [5]⟩ && RawInstr.wellFormed ⟨.nop, []⟩) = true := by decide

/-- An operand word after an opcode of format Z is refused. -/
theorem test_wellFormed_refuses_extra : RawInstr.wellFormed ⟨.add, [5]⟩ = false := by decide

/-- An opcode of format O without its operand word is refused. -/
theorem test_wellFormed_refuses_missing : RawInstr.wellFormed ⟨.ldi, []⟩ = false := by decide

/-- An opcode of format O with two operand words is refused. -/
theorem test_wellFormed_refuses_second : RawInstr.wellFormed ⟨.jgt, [1, 2]⟩ = false := by decide

/-! ### Decode: the words of the table of 30_encoding.md, written out -/

theorem test_decode_nop : decode [0b00000000000000000000000000000000, 0xFFFFFFE4] = .ok .nop [0xFFFFFFE4] := by decide
theorem test_decode_ldrp : decode [0b00000000000000000000000000000001, 0xFFFFFFE4] = .ok (.ldrp 0xFFFFFFE4) [] := by decide
theorem test_decode_strp : decode [0b00000000000000000000000000000010, 0xFFFFFFE4] = .ok (.strp 0xFFFFFFE4) [] := by decide
theorem test_decode_ldr : decode [0b00000000000000000000000000000011, 0xFFFFFFE4] = .ok (.ldr 0xFFFFFFE4) [] := by decide
theorem test_decode_str : decode [0b00000000000000000000000000000100, 0xFFFFFFE4] = .ok (.str 0xFFFFFFE4) [] := by decide
theorem test_decode_push : decode [0b00000000000000000000000000000101, 0xFFFFFFE4] = .ok .push [0xFFFFFFE4] := by decide
theorem test_decode_add : decode [0b00000000000000000000000000000110, 0xFFFFFFE4] = .ok .add [0xFFFFFFE4] := by decide
theorem test_decode_neg : decode [0b00000000000000000000000000000111, 0xFFFFFFE4] = .ok .neg [0xFFFFFFE4] := by decide
theorem test_decode_mul : decode [0b00000000000000000000000000001000, 0xFFFFFFE4] = .ok .mul [0xFFFFFFE4] := by decide
theorem test_decode_div : decode [0b00000000000000000000000000001001, 0xFFFFFFE4] = .ok .div [0xFFFFFFE4] := by decide
theorem test_decode_jmp : decode [0b00000000000000000000000000001010, 0xFFFFFFE4] = .ok .jmp [0xFFFFFFE4] := by decide
theorem test_decode_jgt : decode [0b00000000000000000000000000001011, 0xFFFFFFE4] = .ok (.jgt 0xFFFFFFE4) [] := by decide
theorem test_decode_jlt : decode [0b00000000000000000000000000001100, 0xFFFFFFE4] = .ok (.jlt 0xFFFFFFE4) [] := by decide
theorem test_decode_jeq : decode [0b00000000000000000000000000001101, 0xFFFFFFE4] = .ok (.jeq 0xFFFFFFE4) [] := by decide
theorem test_decode_grow : decode [0b00000000000000000000000000001110, 0xFFFFFFE4] = .ok .grow [0xFFFFFFE4] := by decide
theorem test_decode_sys : decode [0b00000000000000000000000000001111, 0xFFFFFFE4] = .ok (.sys 0xFFFFFFE4) [] := by decide
theorem test_decode_halt : decode [0b00000000000000000000000000010000, 0xFFFFFFE4] = .ok .halt [0xFFFFFFE4] := by decide
theorem test_decode_pause : decode [0b00000000000000000000000000010001, 0xFFFFFFE4] = .ok .pause [0xFFFFFFE4] := by decide
theorem test_decode_lda : decode [0b00000000000000000000000000010010, 0xFFFFFFE4] = .ok (.lda 0xFFFFFFE4) [] := by decide
theorem test_decode_sta : decode [0b00000000000000000000000000010011, 0xFFFFFFE4] = .ok (.sta 0xFFFFFFE4) [] := by decide
theorem test_decode_ldi : decode [0b00000000000000000000000000010100, 0xFFFFFFE4] = .ok (.ldi 0xFFFFFFE4) [] := by decide
theorem test_decode_fmode : decode [0b00000000000000000000000000010101, 0xFFFFFFE4] = .ok .fmode [0xFFFFFFE4] := by decide
theorem test_decode_imode : decode [0b00000000000000000000000000010110, 0xFFFFFFE4] = .ok .imode [0xFFFFFFE4] := by decide
theorem test_decode_mflo : decode [0b00000000000000000000000000010111, 0xFFFFFFE4] = .ok .mflo [0xFFFFFFE4] := by decide
theorem test_decode_mfhi : decode [0b00000000000000000000000000011000, 0xFFFFFFE4] = .ok .mfhi [0xFFFFFFE4] := by decide

theorem test_decode_25_is_invalid : decode [25, 0] = .error (.invalidOpcode 25) := by decide

/-- R92: upper bits are not ignored. -/
theorem test_decode_0x100_is_invalid : decode [0x100, 0] = .error (.invalidOpcode 0x100) := by decide

theorem test_decodeTableWord_short : decodeTableWord 32 20 = some (.ldi 0) := by decide

theorem test_decodeTableWord_long : decodeTableWord 64 (20 + 5 * 2 ^ 32) = some (.ldi 5) := by decide

theorem test_decodeTableWord_refuses : decodeTableWord 32 25 = none := by decide

/-- The instruction placed by `withFetchWord` is the first one run after reset. -/
theorem test_withFetchWord_runs : after (step (State.reset.withFetchWord 64 (20 + 5 * 2 ^ 32)))
    (fun t => (t.bus, t.ip, t.status)) = some (5, 2, .running) := by decide

/-- It is run past a breakpoint and at an unallocated address too. -/
theorem test_withFetchWord_anywhere :
    after (step (State.withFetchWord { State.reset with ip := 5000, bpSet := [5000] } 32 24)) (fun t => (t.bus, t.ip)) =
      some (0, 5001) := by decide

/-! ### One step of each instruction (spec/95 part 2) -/

/-- T1. -/
theorem test_ldrp : after (step (runAt 4 [(4, 1), (5, 6), (10, 8), (12, 0x77)])) (fun t => (t.bus, t.ip)) =
    some (0x77, 6) := by decide

/-- T2: a negative offset and a negative pointer. -/
theorem test_ldrp_back : after (step (runAt 4 [(0, 0x55), (2, 0xFFFFFFFC), (4, 1), (5, 0xFFFFFFFE)]))
    (fun t => (t.bus, t.ip)) = some (0x55, 6) := by decide

/-- T3. -/
theorem test_strp : after (step { runAt 4 [(4, 2), (5, 6), (10, 8)] with bus := 0x99 })
    (fun t => (t.mem, t.bus, t.ip)) = some ([(4, 2), (5, 6), (10, 8), (12, 0x99)], 0x99, 6) := by decide

/-- T4. -/
theorem test_strp_faults : after (step { runAt 4 [(4, 2), (5, 6), (10, 4000)] with bus := 0x99 })
    (fun t => (t.fault, t.faultIp, t.faultInfo, t.status, t.ip)) = some (.regionFault, 4, 4004, .halted, 4) := by decide

/-- T6: its own operand word. -/
theorem test_ldr : after (step (runAt 0 [(0, 3), (1, 1)])) (fun t => (t.bus, t.ip)) = some (1, 2) := by decide

/-- T8: the address wraps and is unallocated. -/
theorem test_ldr_wraps : after (step { runAt 0 [(0, 3), (1, 0xFFFFFFFF)] with bus := 9 }) (fun t => (t.bus, t.ip)) =
    some (0, 2) := by decide

/-- T10: it overwrites its own operand word. -/
theorem test_str : after (step { runAt 0 [(0, 4), (1, 1)] with bus := 0x42 }) (fun t => (t.mem, t.ip)) =
    some ([(0, 4), (1, 0x42)], 2) := by decide

/-- T11. -/
theorem test_str_faults : after (step { runAt 0 [(0, 4), (1, 2048)] with bus := 0x42 })
    (fun t => (t.fault, t.faultIp, t.faultInfo, t.status, t.ip)) = some (.regionFault, 0, 2048, .halted, 0) := by decide

/-- T13. -/
theorem test_lda : after (step (runAt 0 [(0, 18), (1, 2047), (2047, 0xDEADBEEF)])) (fun t => (t.bus, t.ip)) =
    some (0xDEADBEEF, 2) := by decide

/-- T14. -/
theorem test_lda_unallocated : after (step { runAt 0 [(0, 18), (1, 2048)] with bus := 5 }) (fun t => (t.bus, t.fault)) =
    some (0, .none) := by decide

/-- T15. -/
theorem test_sta : after (step { runAt 0 [(0, 19), (1, 2047)] with bus := 0x11 }) (fun t => (t.mem, t.ip)) =
    some ([(0, 19), (1, 2047), (2047, 0x11)], 2) := by decide

/-- T16. -/
theorem test_sta_faults : after (step { runAt 0 [(0, 19), (1, 0xFFFFFFFF)] with bus := 0x11 })
    (fun t => (t.fault, t.faultIp, t.faultInfo, t.ip)) = some (.regionFault, 0, 0xFFFFFFFF, 0) := by decide

/-- T18: the operand word lies in the unallocated address 2048. -/
theorem test_ldi_edge : after (step { runAt 2047 [(2047, 20)] with bus := 9 }) (fun t => (t.bus, t.ip)) =
    some (0, 2049) := by decide

/-- Section 2.2, PUSH. -/
theorem test_push : after (step { runAt 0 [(0, 5)] with latchA := 1, latchB := 2, bus := 3 })
    (fun t => (t.latchA, t.latchB, t.bus, t.ip)) = some (3, 1, 3, 1) := by decide

/-- Section 2.2, ADD: the wrap, and lo cleared. -/
theorem test_add_int : after (step { runAt 0 [(0, 6)] with latchA := 0x80000000, latchB := 0xFFFFFFFF, lo := 7 })
    (fun t => (t.hi, t.lo, t.ip)) = some (0x7FFFFFFF, 0, 1) := by decide

/-- Section 2.3, ADD: a tie to even, upwards. -/
theorem test_add_float : after (step { runAt 0 [(0, 6)] with mode := .float, latchA := 0x4B800000, latchB := 0x40400000 })
    (fun t => (t.hi, t.lo)) = some (0x4B800002, 0) := by decide +kernel

/-- Section 2.2, NEG. -/
theorem test_neg_int : after (step { runAt 0 [(0, 7)] with latchA := 0x7FFFFFFF }) (fun t => (t.hi, t.lo, t.ip)) =
    some (0x80000001, 0, 1) := by decide

/-- Section 2.3, NEG of a NaN. -/
theorem test_neg_float : after (step { runAt 0 [(0, 7)] with mode := .float, latchA := 0x7F800001 }) (fun t => t.hi) =
    some 0xFF800001 := by decide

/-- Section 2.2, MUL of -2 and 3. -/
theorem test_mul_int : after (step { runAt 0 [(0, 8)] with latchA := 0xFFFFFFFE, latchB := 3 })
    (fun t => (t.hi, t.lo, t.ip)) = some (0xFFFFFFFF, 0xFFFFFFFA, 1) := by decide

/-- Section 2.3, MUL of 0.1 by itself. -/
theorem test_mul_float : after (step { runAt 0 [(0, 8)] with mode := .float, latchA := 0x3DCCCCCD, latchB := 0x3DCCCCCD })
    (fun t => (t.hi, t.lo)) = some (0x3F847AE1, 0x51EB8520) := by decide +kernel

/-- Section 2.2, DIV of -7 by 2: A is the dividend, toward zero. -/
theorem test_div_int : after (step { runAt 0 [(0, 9)] with latchA := 0xFFFFFFF9, latchB := 2, lo := 7 })
    (fun t => (t.hi, t.lo, t.ip)) = some (0xFFFFFFFD, 0, 1) := by decide

/-- Section 2.3, DIV of 1.0 by 10.0. -/
theorem test_div_float : after (step { runAt 0 [(0, 9)] with mode := .float, latchA := 0x3F800000, latchB := 0x41200000 })
    (fun t => (t.hi, t.lo)) = some (0x3FB99999, 0x9999999A) := by decide +kernel

/-- Section 2.4, JMP backward. -/
theorem test_jmp : after (step { runAt 6 [(6, 10)] with bus := 0xFFFFFFFA }) (fun t => (t.ip, t.bus)) =
    some (0, 0xFFFFFFFA) := by decide

/-- Section 2.4: JGT -28 at 26, taken. -/
theorem test_jgt : after (step { runAt 26 [(26, 11), (27, 0xFFFFFFE4)] with latchA := 2 }) (fun t => (t.ip, t.cmp)) =
    some (0, .greater) := by decide

/-- Section 2.4: a signed comparison. -/
theorem test_jlt : after (step { runAt 20 [(20, 12), (21, 10)] with latchA := 0xFFFFFFFF, latchB := 1 })
    (fun t => (t.ip, t.cmp)) = some (32, .less) := by decide

/-- Section 2.4: -0 equals +0 in float mode. -/
theorem test_jeq : after (step { runAt 20 [(20, 13), (21, 10)] with mode := .float, latchA := 0x80000000 })
    (fun t => (t.ip, t.cmp)) = some (32, .equal) := by decide

/-- Section 2.4: a NaN compares as CMP_UNORDERED, so JGT is not taken. -/
theorem test_jgt_unordered : after (step { runAt 20 [(20, 11), (21, 10)] with mode := .float, latchA := 0x7FC00000, latchB := 0x3F800000 }) (fun t => (t.ip, t.cmp)) = some (22, .equal) := by
  decide

/-- Y8: NOP at the last address. -/
theorem test_nop : after (step (runAt 0xFFFFFFFF [])) (fun t => (t.ip, t.status)) = some (0, .running) := by decide

/-- Y2. -/
theorem test_grow : after (step (runAt 0 [(0, 14)])) (fun t => (t.regionCount, t.allocated 4095, t.ip)) =
    some (2, true, 1) := by decide

/-- F6. -/
theorem test_grow_faults : after (exec .grow { runAt 0 [(0, 14)] with regionCount := 2097152 })
    (fun t => (t.fault, t.faultInfo, t.regionCount, t.ip)) = some (.regionFault, 0, 2097152, 0) := by decide

/-- Y4: what the host receives, with a query made meanwhile; the word it answers is free. -/
theorem test_sys : after (step { runAt 0 [(0, 15), (1, 0xFFFFFFFE)] with bus := 0x80000000, syscallQueue := [⟨[.getStatus, .enableBreakpoints], true⟩] })
    (fun t => (t.ip, t.portLog, t.syscallCount)) =
    some (2, [.syscall (-2147483648) (-2), .response .getStatus (.statusCode 3),
      .response .enableBreakpoints .refused], 1) := by decide

/-- U13: the host never answers. -/
theorem test_sys_unanswered : step { runAt 0 [(0, 15)] with syscallQueue := [⟨[], false⟩] } = .fault .syscallUnanswered :=
  rfl

/-- Y5. -/
theorem test_halt : after (step (runAt 7 [(7, 16)])) (fun t => (t.status, t.ip, t.fault)) = some (.halted, 8, .none) := by
  decide

/-- Y6. -/
theorem test_pause : after (step (runAt 7 [(7, 17)])) (fun t => (t.status, t.ip)) = some (.paused, 8) := by decide

theorem test_fmode : after (step { runAt 0 [(0, 21)] with latchA := 0x3FC00000 }) (fun t => (t.mode, t.latchA, t.ip)) =
    some (.float, 0x3FC00000, 1) := by decide

theorem test_imode : after (step { runAt 0 [(0, 22)] with mode := .float }) (fun t => (t.mode, t.ip)) =
    some (.int, 1) := by decide

theorem test_mflo : after (step { runAt 0 [(0, 23)] with hi := 1, lo := 42 }) (fun t => (t.bus, t.ip)) = some (42, 1) := by
  decide

theorem test_mfhi : after (step { runAt 0 [(0, 24)] with hi := 8, lo := 42 }) (fun t => (t.bus, t.ip)) = some (8, 1) := by
  decide

/-- F1. -/
theorem test_invalid : after (step (runAt 3 [(3, 25)])) (fun t => (t.fault, t.faultIp, t.faultInfo, t.status, t.ip)) =
    some (.invalidInstruction, 3, 25, .halted, 3) := by decide

/-! ### Floating-point vectors of section 2.3 not run above -/

theorem test_fAdd32_overflow : fAdd32 0x7F7FFFFF 0x7F7FFFFF = 0x7F800000 := by decide +kernel

theorem test_fAdd32_opposite_infinities : fAdd32 0x7F800000 0xFF800000 = 0x7FC00000 := by decide

theorem test_fMul64_largest : fMul64 0x7F7FFFFF 0x7F7FFFFF = 0x4FEFFFFFC0000020 := by decide +kernel

theorem test_fMul64_smallest : fMul64 0x00000001 0x00000001 = 0x2D50000000000000 := by decide +kernel

theorem test_fDiv64_third : fDiv64 0x3F800000 0x40400000 = 0x3FD5555555555555 := by decide +kernel

theorem test_fDiv64_by_minus_zero : fDiv64 0x3F800000 0x80000000 = 0xFFF0000000000000 := by decide +kernel

/-! ### Host commands (section 2.6 and part 3) -/

/-- H-a. -/
theorem test_initialize : after (step { State.reset with hostQueue := [.initMachine] })
    (fun t => (t.status, t.regionCount, t.ip)) = some (.notStarted, 1, 0) := by decide

/-- H2, second row: the first instruction is HALT and step_over ends Paused all the same. -/
theorem test_stepOver_forces_paused : after (step { runAt 0 [(0, 16)] with status := .notStarted, hostQueue := [.stepOver] }) (fun t => (t.status, t.ip)) = some (.paused, 1) := by decide

/-- H-l. -/
theorem test_continue_at_breakpoint : after (step { runAt 0 [(0, 20), (1, 5)] with bpSet := [0] })
    (fun t => (t.status, t.ip, t.bus)) = some (.paused, 0, 0) := by decide

/-- H-j, after T11. -/
theorem test_get_fault : after (step { runAt 0 [] with status := .halted, fault := .regionFault, faultInfo := 2048, hostQueue := [.getFault] }) (fun t => t.portLog) = some [.response .getFault (.faultRegisters 3 0 2048)] := by decide

/-- D23: an unallocated cell is refused. -/
theorem test_hostWrite_refused : after (step { runAt 0 [] with status := .paused, hostQueue := [.hostWrite 2048 1] })
    (fun t => (t.mem, t.portLog)) = some ([], [.response (.hostWrite 2048 1) .refused]) := by decide

/-! ### Witnesses: for every statement with hypotheses, values that meet them, clause by clause -/

theorem test_witness_DecodeReadsBackEncode : (Instr.ldi 0xFFFFFFFF).wellFormed = true ∧ Instr.nop.wellFormed = true := by
  decide

theorem test_witness_DecodedWordsAreTheEncoding : decode [20, 0xFFFFFFFF, 7] = .ok (.ldi 0xFFFFFFFF) [7] := by decide

theorem test_witness_DecodingIsTotal :
    25 ≤ (25 : Word).toNat ∧ 25 ≤ (0xFFFFFFFF : Word).toNat ∧ (24 : Word).toNat < 25 ∧ (0 : Word).toNat < 25 ∧
      (runAt 2048 []).allocated (runAt 2048 []).ip = false := by decide

/-- The three statuses of StepRunsTheDecodedInstruction, and both ways of meeting no breakpoint. -/
theorem test_witness_StepRunsTheDecodedInstruction :
    let s := runAt 4 [(4, 20), (5, 9)]
    let p := { s with status := .paused, hostQueue := [.stepOver], bpSet := [4], bpEnabled := false }
    let n := { s with status := .notStarted, hostQueue := [.stepOver], bpSet := [5] }
    (decode [s.memRead s.ip, s.memRead (s.ip + 1)] = .ok (.ldi 9) [] ∧ (Instr.ldi 9).wellFormed = true ∧
      s.ip ∉ s.bpSet ∧ s.status = .running) ∧
    (decode [p.memRead p.ip, p.memRead (p.ip + 1)] = .ok (.ldi 9) [] ∧ p.bpEnabled = false ∧ p.status = .paused ∧
      p.hostQueue = [.stepOver]) ∧
    (decode [n.memRead n.ip, n.memRead (n.ip + 1)] = .ok (.ldi 9) [] ∧ n.ip ∉ n.bpSet ∧ n.status = .notStarted ∧
      n.hostQueue = [.stepOver] ∧ ∃ t, exec (.ldi 9) { n with hostQueue := [] } = .next t) := by
  refine ⟨by decide, by decide, by decide, by decide, by decide, by decide, _, rfl⟩

/-- The three ways a step of the Processor meets an invalid word. -/
theorem test_witness_InvalidWordTakesInvalidInstruction :
    let s := runAt 3 [(3, 25)]
    let p := { s with status := .paused, hostQueue := [.stepOver], bpSet := [3], bpEnabled := false }
    let n := { s with status := .notStarted, hostQueue := [.stepOver], bpSet := [4] }
    (s.status = .running ∧ s.ip ∉ s.bpSet ∧ 25 ≤ (s.memRead s.ip).toNat) ∧
    (p.status = .paused ∧ p.bpEnabled = false ∧ p.hostQueue = [.stepOver] ∧ 25 ≤ (p.memRead p.ip).toNat) ∧
    (n.status = .notStarted ∧ n.ip ∉ n.bpSet ∧ n.hostQueue = [.stepOver] ∧ 25 ≤ (n.memRead n.ip).toNat) := by decide

theorem test_witness_FetchFromUnallocatedMemoryIsNop :
    let s := runAt 2048 []
    s.status = .running ∧ s.ip ∉ s.bpSet ∧ s.allocated s.ip = false := by decide

/-- The three ways an instruction can end, and the edges of the allocated interval. -/
theorem test_witness_AdvanceByOperandsPlusOne :
    (∃ t, exec .nop (runAt 0 []) = .next t) ∧ (∃ t, exec (.sta 2048) (runAt 0 []) = .next t) ∧
    (∃ t, exec (.jeq 4) (runAt 0 []) = .next t) ∧ (runAt 0 []).compare = .equal ∧
    (runAt 0 []).allocated 2047 = true ∧ (runAt 0 []).regionCount ≤ (2048 : Word).toNat / 2048 :=
  ⟨⟨_, rfl⟩, ⟨_, rfl⟩, ⟨_, rfl⟩, by decide, by decide, by decide⟩

theorem test_witness_WriteThenReadCell :
    (runAt 0 []).allocated 2047 = true ∧ (runAt 0 []).allocated 2048 = false := by decide

/-- A store and a host write that change a cell, from states that meet the invariant. -/
theorem test_witness_CellsChangeOnlyByStoresAndHostWrites :
    let s := { runAt 0 [(0, 19), (1, 2047)] with bus := 0x11 }
    let p := { runAt 0 [] with status := .paused, hostQueue := [.hostWrite 2047 1] }
    (s.Inv ∧ (∃ t, step s = .next t) ∧ after (step s) (fun t => t.memRead 2047) = some 0x11 ∧ s.memRead 2047 = 0) ∧
    (p.Inv ∧ (∃ t, step p = .next t) ∧ after (step p) (fun t => t.memRead 2047) = some 1 ∧ p.memRead 2047 = 0) :=
  ⟨⟨by decide, ⟨_, rfl⟩, by decide, by decide⟩, by decide, ⟨_, rfl⟩, by decide, by decide⟩

/-- For each store an allocated and an unallocated effective address, at the end of region 0. -/
theorem test_witness_StoresWriteOneCellOrFault :
    let s := runAt 0 [(3, 2047), (4, 2048)]
    (s.storeAddress (.strp 3) = some 2047 ∧ s.storeAddress (.str 2047) = some 2047 ∧
      s.storeAddress (.sta 2047) = some 2047 ∧ s.allocated 2047 = true) ∧
    (s.storeAddress (.strp 4) = some 2048 ∧ s.storeAddress (.str 2048) = some 2048 ∧
      s.storeAddress (.sta 2048) = some 2048 ∧ s.allocated 2048 = false) := by decide

/-- Both modes, and for DIV a zero and a non-zero divisor: AddWritesTheSumToHi, NegWritesTheNegationToHi,
MulSplitsTheExactProduct, DivWritesTheQuotientOrFaults. -/
theorem test_witness_alu_modes :
    (runAt 0 []).mode = .int ∧ State.mode { runAt 0 [] with mode := .float } = .float ∧
    (runAt 0 []).latchB = 0 ∧ State.latchB { runAt 0 [] with latchB := 1 } ≠ 0 := by decide

theorem test_witness_IntegerQuotientTruncates :
    (0xFFFFFFFF : Word) ≠ 0 ∧ ¬ ((0x7FFFFFFF : Word) = 0x80000000 ∧ (0xFFFFFFFF : Word) = 0xFFFFFFFF) := by decide

/-- Each of RegisterWriters' changes, by an instruction that makes it. -/
theorem test_witness_RegisterWriters :
    let s := { runAt 0 [] with latchA := 1, latchB := 2, hi := 3, lo := 4, bus := 5 }
    after (exec (.jlt 0) s) (fun t => decide (t.cmp ≠ s.cmp)) = some true ∧
    after (exec .fmode s) (fun t => decide (t.mode ≠ s.mode)) = some true ∧
    after (exec .push s) (fun t => decide (t.latchA ≠ s.latchA ∨ t.latchB ≠ s.latchB)) = some true ∧
    after (exec .mul s) (fun t => decide (t.hi ≠ s.hi ∨ t.lo ≠ s.lo)) = some true ∧
    after (exec .mfhi s) (fun t => decide (t.bus ≠ s.bus)) = some true ∧
    after (exec .grow s) (fun t => decide (t.regionCount ≠ s.regionCount)) = some true ∧
    after (exec (.sys 0) s) (fun t => decide (t.syscallCount ≠ s.syscallCount)) = some true := by decide

/-- A NaN, infinities of both signs, a finite datum, zeros of both signs, and cancelling operands. -/
theorem test_witness_float_special :
    f32 0x7FC00001 = .nan ∧ f32 0x7F800000 = .inf false ∧ f32 0xFF800000 = .inf (!false) ∧
    f32 0x80000000 = .finite true 0 ∧ f32 0x00000000 = .finite false 0 ∧
    f32 0x00000001 = .finite false 1 ∧ f32 0x80000001 = .finite true 1 ∧ signedMag false 1 + signedMag true 1 = 0 := by
  decide +kernel

/-- Finite sums on both sides of the overflow bound: exactly at it, and far below it. -/
theorem test_witness_FloatAddRoundsToNearestEven :
    (f32 0x7F7FFFFF).toInt? = some (2 ^ 277 - 2 ^ 253) ∧ (f32 0x73000000).toInt? = some (2 ^ 252) ∧
    2 ^ 277 - 2 ^ 252 ≤ ((2 ^ 277 - 2 ^ 253) + 2 ^ 252 : Int).natAbs ∧
    (f32 0x00000001).toInt? = some 1 ∧ (1 + 1 : Int).natAbs < 2 ^ 277 - 2 ^ 252 := by decide +kernel

/-- Finite operands, zeros included, of FloatMulIsExact and FloatDivRoundsToNearestEven, and a binary64 datum. -/
theorem test_witness_float_finite :
    f32 0x00000003 = .finite false 3 ∧ f32 0x80800000 = .finite true 8388608 ∧ f32 0x80000000 = .finite true 0 ∧
    f64 0x0010000000000000 = .finite false 4503599627370496 := by decide +kernel

/-- Both modes, a NaN in either latch, and none. -/
theorem test_witness_CompareIsTheSignOfAAgainstB :
    let s := { runAt 0 [] with mode := .float, latchA := 0x7FC00000 }
    let t := { runAt 0 [] with mode := .float, latchA := 0x80000000 }
    (runAt 0 []).mode = .int ∧ (s.mode = .float ∧ f32 s.latchA = .nan) ∧
      (t.mode = .float ∧ f32 t.latchA ≠ .nan ∧ f32 t.latchB ≠ .nan) := by decide

theorem test_witness_ExactlyOneConditionalJumpIsTaken : (1 : Word) ≠ 0 ∧ (0xFFFFFFFE : Word) ≠ 0 := by decide

/-- One region below the limit, and the limit; the first and last address of the new region. -/
theorem test_witness_GrowAddsOneZeroedRegion :
    (runAt 0 []).regionCount < 2097152 ∧ State.regionCount { runAt 0 [] with regionCount := 2097151 } < 2097152 ∧
    State.regionCount { runAt 0 [] with regionCount := 2097152 } = 2097152 ∧
    1 * 2048 ≤ (2048 : Word).toNat ∧ (4095 : Word).toNat < (1 + 1) * 2048 := by decide

theorem test_witness_SysExchangesWithTheHost :
    (runAt 0 []).syscallTurn.answered = true ∧
    State.syscallTurn { runAt 0 [] with syscallQueue := [⟨[], false⟩] } = ⟨[], false⟩ := by decide

theorem test_witness_RequestsInsideASyscallOnlyRead :
    (runAt 0 []).status = .running ∧ State.status { runAt 0 [] with status := .paused } = .paused ∧
    State.status { runAt 0 [] with status := .notStarted } = .notStarted ∧
    (runAt 0 []).allocated 2047 = true ∧ (runAt 0 []).allocated 2048 = false ∧
    HostRequest.hostWrite 0 1 ∈ [HostRequest.initMachine, .setBreakpoint 0, .removeBreakpoint 0, .enableBreakpoints,
      .disableBreakpoints, .continueRun, .stepOver, .hostWrite 0 1] := by decide

/-- A next state with other fault registers, for each cause. -/
theorem test_witness_FaultCauseTable :
    after (exec .div (runAt 0 [])) (fun t => decide (t.fault ≠ .none)) = some true ∧
    after (exec (.sta 2048) (runAt 0 [])) (fun t => decide (t.fault ≠ .none)) = some true ∧
    after (exec .grow { runAt 0 [] with regionCount := 2097152 }) (fun t => decide (t.fault ≠ .none)) = some true := by
  decide

/-- A step from a state with a recorded fault, and steps that record one, inside continue_ and for step_over. -/
theorem test_witness_FaultRegistersNeverCleared :
    let s := { runAt 3 [(3, 25)] with fault := .divideByZero }
    let p := { runAt 3 [(3, 25)] with status := .paused, hostQueue := [.stepOver] }
    (∃ t, step s = .next t) ∧ s.fault ≠ .none ∧
    after (step s) (fun t => decide (t.fault ≠ s.fault)) = some true ∧
    after (step p) (fun t => decide (t.fault ≠ p.fault)) = some true :=
  ⟨⟨_, rfl⟩, by decide, by decide, by decide⟩

theorem test_witness_EveryStepHasANextState : State.reset.syscallTurn.answered = true := by decide

/-- The clauses of BreakpointStopsBeforeTheInstruction, and of NoProgressAtABreakpoint. -/
theorem test_witness_breakpoint :
    let s := { runAt 4 [(4, 20)] with bpSet := [4] }
    let p := { runAt 4 [(4, 20)] with status := .paused, bpSet := [4], hostQueue := [.stepOver] }
    let n := { runAt 4 [(4, 20)] with status := .notStarted, bpSet := [4], hostQueue := [.continueRun] }
    (s.bpEnabled = true ∧ s.ip ∈ s.bpSet ∧ s.status = .running) ∧ (runAt 4 []).ip ∉ (runAt 4 []).bpSet ∧
    (p.status = .paused ∧ p.bpEnabled = true ∧ p.ip ∈ p.bpSet ∧ p.hostQueue = [.stepOver] ∧ ∃ t, step p = .next t) ∧
    (n.status = .notStarted ∧ n.bpEnabled = true ∧ n.ip ∈ n.bpSet ∧ n.hostQueue = [.continueRun]) ∧
    (∃ t, step { n with hostQueue := [.stepOver] } = .next t) :=
  ⟨by decide, by decide, ⟨by decide, by decide, by decide, by decide, _, rfl⟩, by decide, _, rfl⟩

theorem test_witness_RunControlScenarios :
    let s := { runAt 4 [(4, 20)] with bpSet := [4], hostQueue := [.removeBreakpoint 4, .continueRun] }
    let n := { runAt 4 [(4, 20)] with status := .notStarted, hostQueue := [.stepOver] }
    let e := { State.reset with hostQueue := [.continueRun] }
    (s.status = .running ∧ s.bpEnabled = true ∧ s.ip ∈ s.bpSet ∧
      s.hostQueue = [.removeBreakpoint s.ip, .continueRun]) ∧
    (n.status = .notStarted ∧ n.ip ∉ n.bpSet ∧ n.hostQueue = [.stepOver] ∧ ∃ t, step n = .next t) ∧
    (e.status = .empty ∧ e.hostQueue = [.continueRun] ∧ State.status { e with status := .halted } = .halted) :=
  ⟨by decide, ⟨by decide, by decide, by decide, _, rfl⟩, by decide⟩

theorem test_witness_ContinueSetsRunning :
    let n := { runAt 0 [] with status := .notStarted, hostQueue := [.continueRun] }
    let p := { runAt 0 [] with status := .paused, hostQueue := [.continueRun] }
    (n.status = .notStarted ∧ n.hostQueue = [.continueRun]) ∧ (p.status = .paused ∧ p.hostQueue = [.continueRun]) ∧
    (runAt 0 []).status = .running ∧ ∃ t, step (runAt 0 []) = .next t := ⟨by decide, by decide, by decide, _, rfl⟩

theorem test_witness_StepOverElsewhereDoesNothing :
    let e := { State.reset with hostQueue := [.stepOver] }
    let h := { runAt 0 [] with status := .halted, hostQueue := [.stepOver] }
    (e.status = .empty ∧ e.hostQueue = [.stepOver]) ∧ (h.status = .halted ∧ h.hostQueue = [.stepOver]) ∧
    (runAt 0 []).status = .running ∧ ∃ t, step (runAt 0 []) = .next t := ⟨by decide, by decide, by decide, _, rfl⟩

theorem test_witness_InitializeActsInEmptyOnly :
    let e := { State.reset with hostQueue := [.initMachine] }
    let h := { runAt 0 [] with status := .halted, hostQueue := [.initMachine] }
    (e.status = .empty ∧ e.hostQueue = [.initMachine]) ∧ (h.status = .halted ∧ h.hostQueue = [.initMachine]) := by decide

/-- Setting a present and an absent address, removing a present and an absent one. -/
theorem test_witness_BreakpointEditsAreSetEdits :
    let s := { State.reset with bpSet := [4], hostQueue := [.setBreakpoint 4] }
    let r := { State.reset with bpSet := [4], hostQueue := [.removeBreakpoint 5] }
    (s.status ≠ .running ∧ s.hostQueue = [.setBreakpoint 4] ∧ bpSorted s.bpSet = true ∧ 4 ∈ s.bpSet) ∧
    (r.status ≠ .running ∧ r.hostQueue = [.removeBreakpoint 5] ∧ 5 ∉ r.bpSet) := by decide

/-- For BreakpointEnableEdits, InspectionsAnswerAndChangeNothing and StatusAndFaultCodes: a command boundary in each
status, with each of the requests waiting, and each fault cause. -/
theorem test_witness_requests :
    (∀ st ∈ [Status.empty, .notStarted, .paused, .halted], st ≠ .running ∧
      State.status { State.reset with status := st } = st) ∧
    (∀ r ∈ [HostRequest.enableBreakpoints, .disableBreakpoints, .getInstructionPointer, .getRegionSize, .getStatus,
      .getFault], State.hostQueue { State.reset with hostQueue := [r] } = [r]) ∧
    (∀ c ∈ [FaultCause.none, .invalidInstruction, .divideByZero, .regionFault],
      State.fault { State.reset with fault := c } = c) := by decide

theorem test_witness_MemoryPortReachesAllocatedCells :
    let w := { runAt 0 [] with status := .paused, hostQueue := [.hostWrite 2047 1] }
    let r := { runAt 0 [] with status := .paused, hostQueue := [.hostRead 2048] }
    (w.status ≠ .running ∧ w.hostQueue = [.hostWrite 2047 1] ∧ w.allocated 2047 = true ∧ w.allocated 2048 = false) ∧
    (r.status ≠ .running ∧ r.hostQueue = [.hostRead 2048] ∧ r.allocated 2048 = false ∧ r.allocated 2047 = true) := by
  decide

theorem test_witness_HaltedIsTerminal :
    let h := { runAt 0 [] with status := .halted }
    h.status = .halted ∧ h.hostQueue.head? = none := by decide

/-- A step for each transition of StatusTransitionTable. -/
theorem test_witness_StatusTransitionTable :
    after (step { State.reset with hostQueue := [.initMachine] }) (·.status) = some .notStarted ∧
    after (step { runAt 0 [] with status := .notStarted, hostQueue := [.continueRun] }) (·.status) = some .running ∧
    after (step { runAt 0 [] with status := .notStarted, hostQueue := [.stepOver] }) (·.status) = some .paused ∧
    after (step (runAt 0 [(0, 17)])) (·.status) = some .paused ∧
    after (step { runAt 0 [] with status := .paused, hostQueue := [.continueRun] }) (·.status) = some .running ∧
    after (step { runAt 0 [(0, 16)] with status := .paused, hostQueue := [.stepOver] }) (·.status) = some .halted := by
  decide

/-- A GROW and an initialize that add a region, from states that meet the invariant. -/
theorem test_witness_RegionsOnlyGrow :
    (runAt 0 [(0, 14)]).Inv ∧ after (step (runAt 0 [(0, 14)])) (·.regionCount) = some 2 ∧
    State.Inv { State.reset with hostQueue := [.initMachine] } ∧
    after (step { State.reset with hostQueue := [.initMachine] }) (·.regionCount) = some 1 := by decide

theorem test_witness_IdleWithoutARequest : State.reset.status ≠ .running ∧ State.reset.hostQueue = [] := by decide

/-- Two states that differ in what only RunControl sees, three steps of the Processor from the first, and three steps of
the machine from the second. -/
theorem test_witness_RunControlDoesNotChangeTheProgram :
    let s := runAt 0 [(0, 20), (1, 5), (2, 5)]
    let t := { s with status := .paused, bpSet := [2], hostQueue := [.stepOver, .removeBreakpoint 2, .continueRun] }
    (s.programView = t.programView ∧ ∃ u, processorRun 3 s = .next u) ∧
    (t.status ≠ .empty ∧ (∀ r ∈ t.hostQueue, ∀ a v, r ≠ .hostWrite a v) ∧ ∃ u, machineRun 3 t = .next u) ∧
    (State.reset.status = .empty ∧ HostRequest.initMachine ∉ State.reset.hostQueue) :=
  ⟨⟨by decide, _, rfl⟩, ⟨by decide, by simp, _, rfl⟩, by decide⟩

/-- A step of each kind: idle, of the Processor, initialize, host write. -/
theorem test_witness_EachStepIsTheProgramsOrAHostsWrite :
    (∃ t, step State.reset = .next t) ∧ (∃ t, step (runAt 0 [(0, 5)]) = .next t) ∧
    (∃ t, step { State.reset with hostQueue := [.initMachine] } = .next t) ∧
    (∃ t, step { runAt 0 [] with status := .paused, hostQueue := [.hostWrite 7 1] } = .next t) :=
  ⟨⟨_, rfl⟩, ⟨_, rfl⟩, ⟨_, rfl⟩, _, rfl⟩

/-- R264: HALT with an older fault in the registers finishes a program, and the same fault over again fails one. -/
theorem test_witness_ProgramsFinishOrFail :
    let h := { runAt 7 [(7, 16)] with fault := .divideByZero }
    let f := { runAt 3 [(3, 25)] with fault := .invalidInstruction, faultIp := 3, faultInfo := 25 }
    (h.status = .running ∧ h.ip ∉ h.bpSet ∧ h.memRead h.ip = 16 ∧ ∃ t, step h = .next t ∧ h.finished t) ∧
    (f.status = .running ∧ f.ip ∉ f.bpSet ∧ 25 ≤ (f.memRead f.ip).toNat ∧ ∃ t, step f = .next t ∧ f.failed t) ∧
    (runAt 7 [(7, 16)]).fault = .none :=
  ⟨⟨by decide, by decide, by decide, _, rfl, by decide, rfl, 1, rfl, by decide⟩,
   ⟨by decide, by decide, by decide, _, rfl, by decide, rfl, 1, rfl, by decide⟩, by decide⟩

/-- R253 and R291: a fault under step_over in NotStarted is recorded and the status forced to Paused; taken to start
after it, with the word repaired to HALT, the program finishes. -/
theorem test_finished_after_repair :
    let n := { runAt 3 [(3, 25)] with status := .notStarted, hostQueue := [.stepOver, .hostWrite 3 16, .stepOver] }
    let r := { runAt 3 [(3, 25)] with status := .paused, fault := .invalidInstruction, faultIp := 3, faultInfo := 25, hostQueue := [.hostWrite 3 16, .stepOver] }
    step n = .next r ∧ n.recordsFault = true ∧ ∃ t, r.finished t := by
  refine ⟨rfl, by decide, ?_⟩
  exact ⟨_, by decide, rfl, 2, rfl, by decide⟩

theorem test_witness_StepKeepsTheInvariant :
    (runAt 0 [(0, 14)]).Inv ∧ ∃ t, step (runAt 0 [(0, 14)]) = .next t := ⟨by decide, _, rfl⟩

end Sys2Proof.Tests
end

section
/-! The memory family: which addresses are allocated (20_memory.md). -/
namespace Sys2Proof.Machine

/-- The allocation check as R63 words it: the address's region index is below the region count. -/
theorem allocated_iff_regionIndex_lt (s : State) (a : Word) :
    s.allocated a = true ↔ a.toNat / Config.regionSize < s.regionCount := by
  simp only [State.allocated, decide_eq_true_eq]

/-- Settles O9: R63's own form and the interval form, at the model's region size of 2048. -/
theorem allocatedBelowRegionEnd : Obligations.AllocatedBelowRegionEnd := by
  intro s a
  constructor
  · exact allocated_iff_regionIndex_lt s a
  · exact allocated_iff s a

end Sys2Proof.Machine
end

section
/-! The data-transfer family: loads, and stores with their fault (41_data_transfer.md). -/
namespace Sys2Proof.Machine

/-! ### Loads -/

/-- What the loads share: `bus` written, then the advance over opcode and operand. -/
theorem setBus_advance_one (s : State) (v : Word) :
    (s.setBus v).advance 1 = { s with bus := v, ip := s.ip + 2 } := by
  rw [advance_one]; rfl

theorem load_eq (s : State) (ea : Word) : s.load ea = { s with bus := s.memRead ea, ip := s.ip + 2 } :=
  setBus_advance_one s (s.memRead ea)

theorem exec_ldrp (off : Word) (s : State) : exec (.ldrp off) s = .next (s.load (eaRelPtr s off)) := rfl

theorem exec_ldr (off : Word) (s : State) : exec (.ldr off) s = .next (s.load (eaRel s.ip off)) := rfl

theorem exec_lda (addr : Word) (s : State) : exec (.lda addr) s = .next (s.load addr) := rfl

theorem exec_ldi (imm : Word) (s : State) : exec (.ldi imm) s = .next ((s.setBus imm).advance 1) := rfl

/-- Settles O12: each load is a write of `bus` and the advance, at the effective address of its mode as a sum of words. -/
theorem loadsWriteBusOnly : Obligations.LoadsWriteBusOnly := by
  intro s x
  refine ⟨⟨rfl, ?ldrp⟩, ⟨rfl, ?ldr⟩, ⟨rfl, ?lda⟩, rfl, ?ldi⟩
  case ldrp => rw [exec_ldrp, load_eq, eaRelPtr_eq]
  case ldr => rw [exec_ldr, load_eq, eaRel_eq_add]
  case lda => rw [exec_lda, load_eq]
  case ldi => rw [exec_ldi, setBus_advance_one]

/-! ### Stores -/

/-- An instruction that has a store address does the shared store of `bus` there, and nothing else. -/
theorem exec_of_storeAddress {s : State} {i : Instr} {ea : Word} (h : s.storeAddress i = some ea) :
    exec i s = .next (s.store ea s.bus) := by
  cases i with
  | strp off | str off | sta addr => obtain rfl := Option.some.inj h; rfl
  | _ => cases h

theorem store_of_allocated {s : State} {a : Word} (h : s.allocated a = true) (v : Word) :
    s.store a v = (s.setCell a v).advance 1 := if_pos h

theorem store_of_unallocated {s : State} {a : Word} (h : s.allocated a = false) (v : Word) :
    s.store a v = s.raise .regionFault a := by simp [State.store, h]

/-- Everything a store at an allocated address can do to a read. -/
theorem memRead_store {s : State} {a : Word} (h : s.allocated a = true) (v b : Word) :
    (s.store a v).memRead b = if b = a then v else s.memRead b := by
  rw [store_of_allocated h, memRead_congr (s.setCell a v) ((s.setCell a v).advance 1) b rfl rfl,
    memRead_setCell s a b v h]

/-- The frame of a store at an allocated address: memory and `ip` apart, nothing changes. -/
theorem store_frame {s : State} {a : Word} (h : s.allocated a = true) (v : Word) :
    s.store a v = { s with mem := (s.store a v).mem, ip := s.ip + 2 } := by
  rw [store_of_allocated h, advance_one]; rfl

/-- Settles O13: the three stores are one operation at their effective addresses, which writes the one cell where it is
allocated and raises the fault where it is not. -/
theorem storesWriteOneCellOrFault : Obligations.StoresWriteOneCellOrFault := by
  intro s x
  refine ⟨rfl, rfl, rfl, congrArg some (eaRelPtr_eq s x), congrArg some (eaRel_eq_add s.ip x), rfl, ?_⟩
  intro i ea _ hea
  rw [exec_of_storeAddress hea]
  constructor
  · intro halloc
    refine ⟨s.store ea s.bus, rfl, ?stored, ?others, store_frame halloc s.bus⟩
    case stored => rw [memRead_store halloc, if_pos rfl]
    case others => intro a hne; rw [memRead_store halloc, if_neg hne]
  · intro hunalloc
    rw [store_of_unallocated hunalloc]; rfl

end Sys2Proof.Machine
end

section
/-! The ALU family: the latches, the sum, the double-width product and the reads of the result (42_alu.md). -/
namespace Sys2Proof.Machine

/-! ### PUSH -/

/-- What PUSH does to the state: the latches shifted, then the advance over the opcode alone. -/
theorem pushLatch_advance_zero (s : State) (v : Word) :
    (s.pushLatch v).advance 0 = { s with latchB := s.latchA, latchA := v, ip := s.ip + 1 } := by
  rw [advance_zero]; rfl

theorem exec_push (s : State) : exec .push s = .next ((s.pushLatch s.bus).advance 0) := rfl

/-- Settles O14: one shift of the latches and the advance, with no use of the mode. -/
theorem pushShiftsTheLatches : Obligations.PushShiftsTheLatches := by
  refine ⟨rfl, fun s => ?_⟩
  rw [exec_push, pushLatch_advance_zero]

/-! ### Writes of hi and lo -/

/-- What the ALU operations share: `hi` and `lo` written, then the advance over the opcode alone. -/
theorem setHiLo_advance_zero (s : State) (h l : Word) :
    (s.setHiLo h l).advance 0 = { s with hi := h, lo := l, ip := s.ip + 1 } := by
  rw [advance_zero]; rfl

/-- The frame of a double-width result: `hi`, `lo` and `ip` apart, nothing changes. -/
theorem setHiLo64_advance_zero_frame (s : State) (p : BitVec 64) :
    (s.setHiLo64 p).advance 0 =
      { s with hi := ((s.setHiLo64 p).advance 0).hi, lo := ((s.setHiLo64 p).advance 0).lo, ip := s.ip + 1 } :=
  setHiLo_advance_zero s (p.extractLsb' 32 32) (p.extractLsb' 0 32)

/-- The split of R164 loses no bit: `hi` and `lo` joined are the double-width result. -/
theorem hi_append_lo_setHiLo64_advance_zero (s : State) (p : BitVec 64) :
    ((s.setHiLo64 p).advance 0).hi ++ ((s.setHiLo64 p).advance 0).lo = p :=
  BitVec.extractLsb'_append_extractLsb' (w := 32) (len := 32)

/-! ### ADD -/

theorem exec_add (s : State) :
    exec .add s = .next ((s.setHiLo (aluSum s.mode s.latchA s.latchB) 0).advance 0) := rfl

/-- The exact signed sum wrapped into a word is the addition of the words (R170). -/
theorem aluSum_int (a b : Word) : aluSum .int a b = a + b := by
  change BitVec.ofInt 32 (a.toInt + b.toInt) = a + b
  rw [BitVec.ofInt_add, BitVec.ofInt_toInt, BitVec.ofInt_toInt]

theorem aluSum_float (a b : Word) : aluSum .float a b = fAdd32 a b := rfl

/-- Settles O15: a write of the mode's sum to `hi` and of 0 to `lo`; the integer sum is the addition of the words. -/
theorem addWritesTheSumToHi : Obligations.AddWritesTheSumToHi := by
  refine ⟨rfl, fun s => ?_⟩
  rw [exec_add, setHiLo_advance_zero]
  constructor
  · intro hint; rw [hint, aluSum_int]
  · intro hfloat; rw [hfloat, aluSum_float]

/-! ### MUL -/

theorem exec_mul (s : State) :
    exec .mul s = .next ((s.setHiLo64 (aluProduct s.mode s.latchA s.latchB)).advance 0) := rfl

/-- 64 bits hold every product of two signed words, so the double-width result is the exact product (R171). -/
theorem toInt_aluProduct_int (a b : Word) : (aluProduct .int a b).toInt = a.toInt * b.toInt := by
  have lower : -2 ^ 62 ≤ a.toInt * b.toInt := BitVec.le_toInt_mul_toInt
  have upper : a.toInt * b.toInt ≤ 2 ^ 62 := BitVec.toInt_mul_toInt_le
  change (BitVec.ofInt 64 (a.toInt * b.toInt)).toInt = a.toInt * b.toInt
  rw [BitVec.toInt_ofInt_eq_self (by decide) (by omega) (by omega)]

theorem aluProduct_float (a b : Word) : aluProduct .float a b = fMul64 a b := rfl

/-- Settles O17: the split loses no bit of the mode's double-width result, and the integer result is exact. -/
theorem mulSplitsTheExactProduct : Obligations.MulSplitsTheExactProduct := by
  refine ⟨rfl, fun s => ⟨_, exec_mul s, setHiLo64_advance_zero_frame s _, ?int, ?float⟩⟩
  case int => intro hint; rw [hi_append_lo_setHiLo64_advance_zero, hint, toInt_aluProduct_int]
  case float => intro hfloat; rw [hi_append_lo_setHiLo64_advance_zero, hfloat, aluProduct_float]

/-! ### MFLO and MFHI -/

/-- What the moves share: `bus` written, then the advance over the opcode alone. -/
theorem setBus_advance_zero (s : State) (v : Word) :
    (s.setBus v).advance 0 = { s with bus := v, ip := s.ip + 1 } := by
  rw [advance_zero]; rfl

theorem exec_mflo (s : State) : exec .mflo s = .next ((s.setBus s.lo).advance 0) := rfl

theorem exec_mfhi (s : State) : exec .mfhi s = .next ((s.setBus s.hi).advance 0) := rfl

/-- Settles O21: each move is a write of `bus` from its result register and the advance. -/
theorem movesReadTheResultRegisters : Obligations.MovesReadTheResultRegisters := by
  refine ⟨rfl, rfl, fun s => ⟨?mflo, ?mfhi⟩⟩
  case mflo => rw [exec_mflo, setBus_advance_zero]
  case mfhi => rw [exec_mfhi, setBus_advance_zero]

end Sys2Proof.Machine
end

section
/-! The control-transfer family: the unconditional jump (43_control_transfer.md). -/
namespace Sys2Proof.Machine

/-! ### JMP -/

/-- `JMP` writes `ip` once, with no advance after it (R201). -/
theorem exec_jmp (s : State) : exec .jmp s = .next (s.setIp (eaRel s.ip s.bus)) := rfl

/-- What a write of a relative target does to the state: `ip` as a sum of words, and nothing else. -/
theorem setIp_eaRel (s : State) (off : Word) :
    s.setIp (eaRel s.ip off) = { s with ip := s.ip + off } := by
  rw [eaRel_eq_add]; rfl

/-- Settles O30: one write of `ip` at the target relative to `bus`, whose signed reading wraps to the sum of the words. -/
theorem jmpAddsBusToIp : Obligations.JmpAddsBusToIp := by
  refine ⟨rfl, fun s => ?_⟩
  rw [exec_jmp, setIp_eaRel]

end Sys2Proof.Machine
end

section
/-! The system family: the no-op (44_system.md). -/
namespace Sys2Proof.Machine

/-! ### NOP -/

/-- `NOP` is the advance over the opcode alone: its body does nothing (R221). -/
theorem exec_nop (s : State) : exec .nop s = .next (s.advance 0) := rfl

/-- The advance over the opcode alone, as a state: `ip` moves by one word, with wrap-around, and nothing else changes. -/
theorem advance_zero_eq_update (s : State) : s.advance 0 = { s with ip := s.ip + 1 } := by
  rw [advance_zero]; rfl

/-- Settles O33: the step is the advance alone, and the advance writes only `ip`. -/
theorem nopAdvancesOnly : Obligations.NopAdvancesOnly := by
  refine ⟨rfl, fun s => ?_⟩
  rw [exec_nop, advance_zero_eq_update]

end Sys2Proof.Machine
end

section
/-! The run-control family: the guarded step, the host's run commands, and the commands that edit the breakpoints or
only ask (45_run_control.md). -/
namespace Sys2Proof.Machine

/-! ### What a step of the machine is -/

/-- Inside `continue_` a step of the machine is a guarded step (R251). -/
theorem step_of_running {s : State} (hrun : s.status = .running) : step s = guardedStep s := by
  obtain ⟨_, hstep⟩ | ⟨hidle, _⟩ | ⟨hidle, _⟩ := step_cases s
  · exact hstep
  · exact absurd hrun hidle
  · exact absurd hrun hidle

/-- Outside `continue_` the request at the head of the queue is taken and carried out (R240). -/
theorem step_of_request {s : State} {r : HostRequest} {queue : List HostRequest} (hidle : s.status ≠ .running)
    (hqueue : s.hostQueue = r :: queue) : step s = hostRequest r { s with hostQueue := queue } := by
  obtain ⟨hrun, _⟩ | ⟨_, hnil, _⟩ | ⟨_, r', rest, hcons, hstep⟩ := step_cases s
  · exact absurd hrun hidle
  · rw [hqueue] at hnil; cases hnil
  · rw [hqueue] at hcons; cases hcons; exact hstep

/-! ### The guarded step -/

theorem guardedStep_at_breakpoint {s : State} (henabled : s.bpEnabled = true) (hmem : s.ip ∈ s.bpSet) :
    guardedStep s = .next (s.setStatus .paused) :=
  if_pos ((atBreakpoint_iff s).mpr ⟨henabled, hmem⟩)

theorem guardedStep_off_breakpoint {s : State} (h : s.bpEnabled = false ∨ s.ip ∉ s.bpSet) :
    guardedStep s = processorStep s := by
  refine if_neg fun hat => ?_
  obtain ⟨henabled, hmem⟩ := (atBreakpoint_iff s).mp hat
  obtain hdisabled | hnot := h
  · rw [henabled] at hdisabled; cases hdisabled
  · exact hnot hmem

/-! ### `step_over` and `continue_` by status -/

theorem stepOverCommand_paused {s : State} (h : s.status = .paused) : stepOverCommand s = guardedStep s := by
  simp only [stepOverCommand, h]

/-- In `NotStarted` whatever status the guarded step left is overwritten by `Paused` (R253). -/
theorem stepOverCommand_notStarted {s t : State} (h : s.status = .notStarted) (hnext : stepOverCommand s = .next t) :
    ∃ u, guardedStep s = .next u ∧ t = u.setStatus .paused := by
  obtain ⟨hpaused, _⟩ | ⟨_, hforced⟩ | ⟨_, hnot, _⟩ := stepOverCommand_cases s t hnext
  · rw [h] at hpaused; cases hpaused
  · exact hforced
  · exact absurd h hnot

theorem stepOverCommand_empty_or_halted {s : State} (h : s.status = .empty ∨ s.status = .halted) :
    stepOverCommand s = .next s := by
  obtain h | h := h <;> simp only [stepOverCommand, h]

theorem continued_paused {s : State} (h : s.status = .paused) : s.continued = s.setStatus .running := by
  simp only [State.continued, h]

theorem continued_empty_or_halted {s : State} (h : s.status = .empty ∨ s.status = .halted) : s.continued = s := by
  obtain h | h := h <;> simp only [State.continued, h]

theorem ne_running_of_empty_or_halted {st : Status} (h : st = .empty ∨ st = .halted) : st ≠ .running := by
  obtain rfl | rfl := h <;> decide

/-- `step_over` in `Paused` takes the request and is a guarded step (R252). -/
theorem step_stepOver_paused {s : State} {queue : List HostRequest} (h : s.status = .paused)
    (hqueue : s.hostQueue = .stepOver :: queue) : step s = guardedStep { s with hostQueue := queue } :=
  (step_of_request (by simp [h]) hqueue).trans (stepOverCommand_paused (s := { s with hostQueue := queue }) h)

/-- `step_over` in `NotStarted` takes the request and runs a guarded step, whose status gives way to `Paused` (R253). -/
theorem step_stepOver_notStarted {s t : State} {queue : List HostRequest} (h : s.status = .notStarted)
    (hqueue : s.hostQueue = .stepOver :: queue) (hnext : step s = .next t) :
    ∃ u, guardedStep { s with hostQueue := queue } = .next u ∧ t = { u with status := .paused } :=
  stepOverCommand_notStarted (s := { s with hostQueue := queue }) h
    ((step_of_request (by simp [h]) hqueue).symm.trans hnext)

/-- Settles O41: the guarded step by the breakpoint's two cases, and its two users, `continue_` and `step_over`. -/
theorem breakpointStopsBeforeTheInstruction : Obligations.BreakpointStopsBeforeTheInstruction := by
  refine ⟨fun s => guardedStep_at_breakpoint, fun s => guardedStep_off_breakpoint, fun s => step_of_running, ?stepOver⟩
  case stepOver =>
    intro s t queue hqueue hstep
    constructor
    · intro hpaused
      exact (step_stepOver_paused hpaused hqueue).symm.trans hstep
    · intro hnotStarted
      exact step_stepOver_notStarted hnotStarted hqueue hstep

/-! ### The breakpoint set after an edit -/

theorem mem_bpRemove (a b : Word) (bs : List Word) : b ∈ bpRemove a bs ↔ b ≠ a ∧ b ∈ bs := by
  rw [bpRemove, List.mem_filter, decide_eq_true_iff, and_comm]

theorem mem_bpInsert (a b : Word) (bs : List Word) : b ∈ bpInsert a bs ↔ b = a ∨ b ∈ bs := by
  rw [bpInsert, mem_bpInsertSorted, mem_bpRemove]
  tauto

/-- Removing an absent address leaves the set as it is (R244). -/
theorem bpRemove_of_notMem {a : Word} {bs : List Word} (h : a ∉ bs) : bpRemove a bs = bs :=
  List.filter_eq_self.mpr fun _ hb => decide_eq_true (ne_of_mem_of_not_mem hb h)

/-- Two canonical lists with the same members are the same list. -/
theorem eq_of_bpSorted_of_mem_iff {as bs : List Word} (has : bpSorted as = true) (hbs : bpSorted bs = true)
    (hmem : ∀ c, c ∈ as ↔ c ∈ bs) : as = bs :=
  have : Std.Irrefl fun a b : Word => a.toNat < b.toNat := ⟨fun a => lt_irrefl a.toNat⟩
  have : Std.Asymm fun a b : Word => a.toNat < b.toNat := ⟨fun _ _ => lt_asymm⟩
  ((bpSorted_iff as).mp has).eq_of_mem_iff ((bpSorted_iff bs).mp hbs) hmem

/-- Setting a present address leaves a canonical set as it is (R243). -/
theorem bpInsert_of_mem {a : Word} {bs : List Word} (hsorted : bpSorted bs = true) (h : a ∈ bs) :
    bpInsert a bs = bs := by
  refine eq_of_bpSorted_of_mem_iff (bpSorted_insert a bs hsorted) hsorted fun c => ?_
  rw [mem_bpInsert]
  exact or_iff_right_of_imp fun hc => hc ▸ h

/-- Settles O47: each request writes `bp_set` alone, and the lists it writes are the set edits. -/
theorem breakpointEditsAreSetEdits : Obligations.BreakpointEditsAreSetEdits := by
  intro s a queue hidle
  constructor
  · intro hqueue
    exact ⟨_, step_of_request hidle hqueue, rfl, fun b => mem_bpInsert a b s.bpSet, bpInsert_of_mem⟩
  · intro hqueue
    exact ⟨_, step_of_request hidle hqueue, rfl, fun b => mem_bpRemove a b s.bpSet, bpRemove_of_notMem⟩

/-! ### The scenarios of R266 -/

/-- `continue_` in `Halted` or `Empty` only takes the request (R251). -/
theorem step_continueRun_empty_or_halted {s : State} {queue : List HostRequest}
    (h : s.status = .empty ∨ s.status = .halted) (hqueue : s.hostQueue = .continueRun :: queue) :
    step s = .next { s with hostQueue := queue } :=
  (step_of_request (ne_running_of_empty_or_halted h) hqueue).trans
    (congrArg Host.Outcome.next (continued_empty_or_halted (s := { s with hostQueue := queue }) h))

/-- `continue_` in `Paused` takes the request and writes `status` (R251). -/
theorem step_continueRun_paused {s : State} {queue : List HostRequest} (h : s.status = .paused)
    (hqueue : s.hostQueue = .continueRun :: queue) :
    step s = .next { s with status := .running, hostQueue := queue } :=
  (step_of_request (by simp [h]) hqueue).trans
    (congrArg Host.Outcome.next (continued_paused (s := { s with hostQueue := queue }) h))

/-- Scenario (a) of R266: the stop at the breakpoint, its removal, and the Processor's step after the next `continue_`. -/
theorem continue_past_removed_breakpoint {s : State} {queue : List HostRequest} (hrun : s.status = .running)
    (henabled : s.bpEnabled = true) (hmem : s.ip ∈ s.bpSet)
    (hqueue : s.hostQueue = .removeBreakpoint s.ip :: .continueRun :: queue) :
    ∃ t u v, step s = .next t ∧ t = { s with status := .paused } ∧ step t = .next u ∧ step u = .next v ∧
      v.status = .running ∧ v.ip = s.ip ∧ v = { s with bpSet := v.bpSet, hostQueue := queue } ∧
      s.ip ∉ v.bpSet ∧ step v = processorStep v := by
  have hremoved : s.ip ∉ bpRemove s.ip s.bpSet := fun h => ((mem_bpRemove _ _ _).mp h).1 rfl
  refine ⟨{ s with status := .paused },
    { s with status := .paused, bpSet := bpRemove s.ip s.bpSet, hostQueue := .continueRun :: queue },
    { s with status := .running, bpSet := bpRemove s.ip s.bpSet, hostQueue := queue },
    ?stop, rfl, ?remove, step_continueRun_paused rfl rfl, rfl, rfl, ?frame, hremoved, ?resume⟩
  case stop => exact (step_of_running hrun).trans (guardedStep_at_breakpoint henabled hmem)
  case remove => exact step_of_request (s := { s with status := .paused }) (by simp) hqueue
  case frame => rw [← hrun]
  case resume => exact (step_of_running rfl).trans (guardedStep_off_breakpoint (.inr hremoved))

/-- Settles O43: the three scenarios, each from the equations of its commands. -/
theorem runControlScenarios : Obligations.RunControlScenarios := by
  refine ⟨fun s queue => continue_past_removed_breakpoint, ?firstStepOver,
    fun s queue h => step_continueRun_empty_or_halted h.symm⟩
  case firstStepOver =>
    intro s t queue hnotStarted hoff hqueue hstep
    obtain ⟨u, hguarded, hforced⟩ := step_stepOver_notStarted hnotStarted hqueue hstep
    have hproc := guardedStep_off_breakpoint (s := { s with hostQueue := queue }) hoff
    exact ⟨u, hproc.symm.trans hguarded, hforced⟩

/-! ### The host's queue inside `continue_` -/

theorem store_hostQueue (s : State) (a v : Word) : (s.store a v).hostQueue = s.hostQueue := by
  obtain ⟨_, h⟩ | ⟨_, h⟩ := store_cases s a v <;> rw [h] <;> rfl

theorem condJump_hostQueue (s : State) (taken : CmpResult → Bool) (off : Word) :
    (s.condJump taken off).hostQueue = s.hostQueue := by
  unfold State.condJump
  split <;> rfl

theorem execDiv_hostQueue {s t : State} (h : execDiv s = .next t) : t.hostQueue = s.hostQueue := by
  unfold execDiv at h
  split at h
  · split at h <;> cases h <;> rfl
  · cases h; rfl

theorem execGrow_hostQueue {s t : State} (h : execGrow s = .next t) : t.hostQueue = s.hostQueue := by
  unfold execGrow at h
  split at h <;> cases h <;> rfl

theorem execSys_hostQueue {s t : State} {arg : Word} (h : execSys arg s = .next t) : t.hostQueue = s.hostQueue := by
  unfold execSys at h
  split at h <;> cases h
  rfl

/-- No instruction takes a request of the host or adds one. -/
theorem exec_hostQueue {i : Instr} {s t : State} (h : exec i s = .next t) : t.hostQueue = s.hostQueue := by
  cases i with
  | strp off | str off | sta addr => cases h; exact store_hostQueue s _ _
  | jgt off | jlt off | jeq off => cases h; exact condJump_hostQueue s _ off
  | div => exact execDiv_hostQueue h
  | grow => exact execGrow_hostQueue h
  | sys arg => exact execSys_hostQueue h
  | _ => cases h; rfl

theorem processorStep_hostQueue {s t : State} (h : processorStep s = .next t) : t.hostQueue = s.hostQueue := by
  obtain ⟨i, _, _, hexec⟩ | ⟨_, _, hraise⟩ := processorStep_cases s
  · exact exec_hostQueue (hexec.symm.trans h)
  · rw [hraise] at h; cases h; rfl

theorem guardedStep_hostQueue {s t : State} (h : guardedStep s = .next t) : t.hostQueue = s.hostQueue := by
  obtain ⟨_, hstop⟩ | ⟨_, hproc⟩ := guardedStep_cases s
  · rw [hstop] at h; cases h; rfl
  · exact processorStep_hostQueue (hproc.symm.trans h)

/-- Settles O45: `step_over`'s arm for the two statuses; a `Running` step is a guarded one, which keeps the queue. -/
theorem stepOverElsewhereDoesNothing : Obligations.StepOverElsewhereDoesNothing := by
  constructor
  · intro s queue hstatus hqueue
    rw [step_of_request (ne_running_of_empty_or_halted hstatus) hqueue]
    exact stepOverCommand_empty_or_halted hstatus
  · intro s t hrun hstep
    exact guardedStep_hostQueue ((step_of_running hrun).symm.trans hstep)

/-! ### The enable bit and the inspections -/

/-- Settles O48: each request is one write of `bp_enabled`. -/
theorem breakpointEnableEdits : Obligations.BreakpointEnableEdits :=
  fun _ _ hidle => ⟨step_of_request hidle, step_of_request hidle⟩

/-- A request that has an answer passes it to the host and does nothing else (R257 to R260, R262). -/
theorem hostRequest_of_inspect {s : State} {r : HostRequest} {answer : HostResponse} (h : s.inspect r = some answer) :
    hostRequest r s = .next (s.emit (.response r answer)) := by
  have hinspected : s.inspected r = s.emit (.response r answer) := by simp only [State.inspected, h]
  cases r with
  | getInstructionPointer | getStatus | getRegionSize | getFault | hostRead addr =>
    exact congrArg Host.Outcome.next hinspected
  | _ => cases h

/-- Settles O49: the two answers, and the one event each inspection adds. -/
theorem inspectionsAnswerAndChangeNothing : Obligations.InspectionsAnswerAndChangeNothing :=
  fun _ _ hidle =>
    ⟨fun hqueue => (step_of_request hidle hqueue).trans (hostRequest_of_inspect rfl),
      fun hqueue => (step_of_request hidle hqueue).trans (hostRequest_of_inspect rfl)⟩

end Sys2Proof.Machine
end

section
/-! The exceptions family: the fault of an invalid opcode word (60_exceptions.md). -/
namespace Sys2Proof.Machine

/-! ### Decoding a word that is no opcode -/

/-- The opcode numbers are 0 to 24 (R96, decision D1). -/
theorem toNat_opcodeMap_lt (o : Opcode) : (opcodeMap o).toNat < 25 := by
  cases o <;> decide

/-- No opcode has a number of 25 or more, and the whole word is compared (R92). -/
theorem opcodeOfWord_eq_none {w : Word} (h : 25 ≤ w.toNat) : opcodeOfWord w = none := by
  refine List.find?_eq_none.mpr fun o _ hmatch => ?_
  have heq : opcodeMap o = w := eq_of_beq hmatch
  have hlt : w.toNat < 25 := heq ▸ toNat_opcodeMap_lt o
  omega

/-- The decoder refuses the word before it looks at the words after it (R98). -/
theorem decode_of_invalid {w : Word} (h : 25 ≤ w.toNat) (ws : List Word) :
    decode (w :: ws) = .error (.invalidOpcode w) := by
  simp only [decode, opcodeOfWord_eq_none h]

/-! ### The steps that meet it -/

/-- The Processor's step raises the fault of R280, with the opcode word as its information. -/
theorem processorStep_of_invalid {s : State} (h : 25 ≤ (s.memRead s.ip).toNat) :
    processorStep s = .next (s.raise .invalidInstruction (s.memRead s.ip)) := by
  have hrefused : decode s.fetchWords = .error (.invalidOpcode (s.memRead s.ip)) := decode_of_invalid h _
  obtain ⟨_, _, hok, _⟩ | ⟨_, _, hraise⟩ := processorStep_cases s
  · rw [hrefused] at hok; cases hok
  · exact hraise

/-- So does a guarded step that no breakpoint stops (R250). -/
theorem guardedStep_of_invalid {s : State} (hoff : s.bpEnabled = false ∨ s.ip ∉ s.bpSet)
    (h : 25 ≤ (s.memRead s.ip).toNat) :
    guardedStep s = .next (s.raise .invalidInstruction (s.memRead s.ip)) :=
  (guardedStep_off_breakpoint hoff).trans (processorStep_of_invalid h)

/-- In `NotStarted` the next state of `step_over` is the guarded step's, with `status` forced to `Paused` (R253). -/
theorem stepOverCommand_notStarted_of_next {s u : State} (h : s.status = .notStarted)
    (hguarded : guardedStep s = .next u) : stepOverCommand s = .next (u.setStatus .paused) := by
  simp only [stepOverCommand, h, hguarded]

/-- Settles O6: the decoder refuses the word, so every way to the Processor's step raises the fault; taking the request
first changes no read, and `NotStarted` overwrites the status that the fault left. -/
theorem invalidWordTakesInvalidInstruction : Obligations.InvalidWordTakesInvalidInstruction := by
  intro s queue hoff hinvalid
  have htaken : guardedStep { s with hostQueue := queue } =
      .next (State.raise { s with hostQueue := queue } .invalidInstruction (s.memRead s.ip)) :=
    guardedStep_of_invalid (s := { s with hostQueue := queue }) hoff hinvalid
  refine ⟨processorStep_of_invalid hinvalid, ?running, ?paused, ?notStarted⟩
  case running =>
    intro hrun
    exact (step_of_running hrun).trans (guardedStep_of_invalid hoff hinvalid)
  case paused =>
    intro hpaused hqueue
    exact (step_stepOver_paused hpaused hqueue).trans htaken
  case notStarted =>
    intro hnotStarted hqueue
    exact (step_of_request (by simp [hnotStarted]) hqueue).trans
      (stepOverCommand_notStarted_of_next (s := { s with hostQueue := queue }) hnotStarted htaken)

end Sys2Proof.Machine
end

section
/-! The encoding family: the decoder and the encoder are inverse, and decoding is total (30_encoding.md). -/
namespace Sys2Proof.Machine

/-! ### The opcode map -/

/-- The decoder finds every opcode under its own number. -/
theorem opcodeOfWord_opcodeMap (o : Opcode) : opcodeOfWord (opcodeMap o) = some o := by
  cases o <;> rfl

/-- The whole word is the number of the opcode found (R92). -/
theorem opcodeMap_of_opcodeOfWord {w : Word} {o : Opcode} (h : opcodeOfWord w = some o) : opcodeMap o = w :=
  eq_of_beq (List.find?_some (p := fun o => opcodeMap o == w) h)

/-- The list of opcodes is in the order of their numbers. -/
theorem opcodeMap_allOpcodes : ∀ k, (h : k < 25) → opcodeMap (allOpcodes[k]'h) = BitVec.ofNat 32 k := by decide

/-- Every number below 25 belongs to an opcode (R96, decision D1). -/
theorem exists_opcodeOfWord {w : Word} (h : w.toNat < 25) : ∃ o, opcodeOfWord w = some o ∧ opcodeMap o = w := by
  have hnumber : opcodeMap (allOpcodes[w.toNat]'h) = w := by
    rw [opcodeMap_allOpcodes _ h, BitVec.ofNat_toNat, BitVec.setWidth_eq]
  exact ⟨_, (congrArg opcodeOfWord hnumber).symm.trans (opcodeOfWord_opcodeMap _), hnumber⟩

/-- What the decoder does with a word that is an opcode's number. -/
theorem decode_of_opcodeOfWord {w : Word} {o : Opcode} (h : opcodeOfWord w = some o) (ws : List Word) :
    decode (w :: ws) = decodeOperands ws o := by simp only [decode, h]

/-! ### Operand words -/

/-- An opcode of format O takes exactly the next word as its operand. -/
theorem withOperand_eq_ok {o : Opcode} {mk : Word → Instr} {ws rest : List Word} {i : Instr}
    (h : withOperand o mk ws = .ok i rest) : ∃ x, ws = x :: rest ∧ i = mk x := by
  cases ws with
  | nil => cases h
  | cons x ws => cases h; exact ⟨x, rfl, rfl⟩

/-- Reading an instruction's own operands back, whatever words follow. -/
theorem decodeOperands_operands (i : Instr) (rest : List Word) :
    decodeOperands (i.operands ++ rest) i.opcode = .ok i rest := by
  cases i <;> rfl

/-- An instruction read for an opcode has that opcode, and its operands are the words taken. -/
theorem eq_operands_of_decodeOperands {o : Opcode} {ws rest : List Word} {i : Instr}
    (h : decodeOperands ws o = .ok i rest) : i.opcode = o ∧ ws = i.operands ++ rest := by
  cases o with
  | ldrp | strp | ldr | str | jgt | jlt | jeq | sys | lda | sta | ldi =>
    obtain ⟨x, rfl, rfl⟩ := withOperand_eq_ok h
    exact ⟨rfl, rfl⟩
  | _ => cases h; exact ⟨rfl, rfl⟩

/-- Where a word for the operand is there, every opcode has an instruction. -/
theorem exists_decodeOperands (o : Opcode) (x : Word) (rest : List Word) :
    ∃ i left, decodeOperands (x :: rest) o = .ok i left := by
  cases o <;> exact ⟨_, _, rfl⟩

/-! ### The decoder -/

theorem decode_encode (i : Instr) (rest : List Word) : decode (encode i ++ rest) = .ok i rest :=
  (decode_of_opcodeOfWord (opcodeOfWord_opcodeMap i.opcode) _).trans (decodeOperands_operands i rest)

theorem eq_encode_of_decode {ws rest : List Word} {i : Instr} (h : decode ws = .ok i rest) :
    ws = encode i ++ rest := by
  cases ws with
  | nil => cases h
  | cons w ws =>
    cases hopcode : opcodeOfWord w with
    | none => simp only [decode, hopcode] at h; cases h
    | some o =>
      rw [decode_of_opcodeOfWord hopcode] at h
      obtain ⟨rfl, rfl⟩ := eq_operands_of_decodeOperands h
      rw [← opcodeMap_of_opcodeOfWord hopcode]
      rfl

/-- A number below 25 with a word after it is an instruction under that number. -/
theorem exists_decode_of_lt {w : Word} (h : w.toNat < 25) (x : Word) (rest : List Word) :
    ∃ i left, decode (w :: x :: rest) = .ok i left ∧ (encode i).head? = some w := by
  obtain ⟨o, hopcode, hnumber⟩ := exists_opcodeOfWord h
  obtain ⟨i, left, hdecode⟩ := exists_decodeOperands o x rest
  refine ⟨i, left, (decode_of_opcodeOfWord hopcode _).trans hdecode, ?_⟩
  obtain ⟨rfl, _⟩ := eq_operands_of_decodeOperands hdecode
  exact congrArg some hnumber

/-- An opcode word of 0 is `NOP`, as an unallocated cell reads (R66, R100). -/
theorem decode_zero (ws : List Word) : decode (0 :: ws) = .ok .nop ws := decode_encode .nop ws

/-- Settles O1: the opcode is found under its own number, and its operands are read back. -/
theorem decodeReadsBackEncode : Obligations.DecodeReadsBackEncode := fun i rest _ => decode_encode i rest

/-- Settles O2: the opcode found has the whole word as its number, and the words taken are the operands. -/
theorem decodedWordsAreTheEncoding : Obligations.DecodedWordsAreTheEncoding := fun _ _ _ => eq_encode_of_decode

/-- Settles O3: no number of 25 or more is in the map, every smaller one is, and unallocated cells read as `NOP`'s 0. -/
theorem decodingIsTotal : Obligations.DecodingIsTotal := by
  refine ⟨fun w x rest => ⟨fun h => decode_of_invalid h _, fun h => exists_decode_of_lt h x rest⟩, ?unallocated⟩
  case unallocated =>
    intro s h
    rw [memRead_unallocated s s.ip h]
    exact ⟨_, decode_zero _⟩

/-- Settles O4: each row is the encoding of its instruction, and 0x100 is no number of the map. -/
theorem writtenWordsDecode : Obligations.WrittenWordsDecode :=
  ⟨decode_encode (.ldr 0xFFFFFFFE) [], decode_encode .div [0x00000007], decode_encode (.jgt 0xFFFFFFE4) [],
    decode_encode (.sys 0x0000002A) [], decode_encode (.lda 0x000007FF) [], decode_of_invalid (by decide) _⟩

end Sys2Proof.Machine
end

section
/-! The instructions one by one: the rest of the ALU, the conditional jumps and the system instructions, each as one
equation, and what the claims say of it (42_alu.md, 43_control_transfer.md, 44_system.md). -/
namespace Sys2Proof.Machine

/-! ### NEG -/

theorem exec_neg (s : State) :
    exec .neg s = .next ((s.setHiLo (aluNegation s.mode s.latchA) 0).advance 0) := rfl

/-- The exact negation wrapped into a word is the negation of the word (R170). -/
theorem aluNegation_int (a : Word) : aluNegation .int a = -a := by
  change BitVec.ofInt 32 (0 - a.toInt) = -a
  rw [Int.zero_sub, BitVec.ofInt_neg, BitVec.ofInt_toInt]

/-- The float negation flips bit 31 and keeps the others (R179). -/
theorem getLsbD_fNeg32 (a : Word) (k : Nat) :
    (fNeg32 a).getLsbD k = (a.getLsbD k ^^ decide (k = 31)) := by
  have hmask : (0x80000000 : Word) = BitVec.twoPow 32 31 := by decide
  rw [fNeg32, BitVec.getLsbD_xor, hmask, BitVec.getLsbD_twoPow]
  simp [eq_comm]

theorem extractLsb'_fNeg32 (a : Word) : (fNeg32 a).extractLsb' 0 31 = a.extractLsb' 0 31 := by
  ext k hk
  simp [getLsbD_fNeg32, hk.ne]

/-- Settles O16: a write of the mode's negation to `hi` and of 0 to `lo`; the float one flips bit 31 alone. -/
theorem negWritesTheNegationToHi : Obligations.NegWritesTheNegationToHi := by
  refine ⟨rfl, fun s => ⟨_, exec_neg s, setHiLo_advance_zero s _ 0, ?int, ?float⟩⟩
  case int => intro hint; exact (congrArg (aluNegation · s.latchA) hint).trans (aluNegation_int s.latchA)
  case float =>
    intro hfloat
    have hhi : ((s.setHiLo (aluNegation s.mode s.latchA) 0).advance 0).hi = fNeg32 s.latchA :=
      congrArg (aluNegation · s.latchA) hfloat
    rw [hhi]
    exact ⟨extractLsb'_fNeg32 _, by rw [getLsbD_fNeg32, decide_eq_true rfl, Bool.xor_true]⟩

/-! ### DIV -/

theorem exec_div_int {s : State} (hint : s.mode = .int) (hB : s.latchB ≠ 0) :
    exec .div s = .next ((s.setHiLo (intQuotient s.latchA s.latchB) 0).advance 0) := by
  have hsigned : signed s.latchB ≠ 0 := fun h => hB (BitVec.eq_of_toInt_eq h)
  simp only [exec, execDiv, hint, if_neg hsigned]

theorem exec_div_zero {s : State} (hint : s.mode = .int) (hB : s.latchB = 0) :
    exec .div s = .next (s.raise .divideByZero 0) := by
  simp [exec, execDiv, hint, hB]

theorem exec_div_float {s : State} (hfloat : s.mode = .float) :
    exec .div s = .next ((s.setHiLo64 (fDiv64 s.latchA s.latchB)).advance 0) := by
  simp only [exec, execDiv, hfloat]

/-- The quotient rounded toward zero and wrapped is the signed division of the words (R172, R173). -/
theorem intQuotient_eq_sdiv (a b : Word) : intQuotient a b = a.sdiv b :=
  BitVec.eq_of_toInt_eq (by rw [intQuotient, w32, BitVec.toInt_ofInt, BitVec.toInt_sdiv])

/-- Settles O18: the three ways DIV can go, by the mode and the divisor. -/
theorem divWritesTheQuotientOrFaults : Obligations.DivWritesTheQuotientOrFaults := by
  refine ⟨rfl, fun s => ⟨?quotient, ?fault, ?float⟩⟩
  case quotient =>
    intro hint hB
    rw [exec_div_int hint hB, setHiLo_advance_zero, intQuotient_eq_sdiv]
  case fault =>
    intro hint hB
    rw [exec_div_zero hint hB]; rfl
  case float =>
    intro hfloat
    exact ⟨_, exec_div_float hfloat, setHiLo64_advance_zero_frame s _, hi_append_lo_setHiLo64_advance_zero s _⟩

/-- Every exact quotient of two words but that of -2^31 by -1 fits a word (R173). -/
theorem tdiv_toInt_lt {a b : Word} (h : ¬ (a = 0x80000000 ∧ b = 0xFFFFFFFF)) :
    Int.tdiv a.toInt b.toInt < 2 ^ 31 := by
  have hle : -2 ^ 31 ≤ a.toInt := BitVec.le_toInt a
  have hlt : a.toInt < 2 ^ 31 := BitVec.toInt_lt
  by_contra hge
  have hquot : 2 ^ 31 ≤ a.toInt.natAbs / b.toInt.natAbs := by
    have := Int.natAbs_tdiv a.toInt b.toInt
    change _ = a.toInt.natAbs / b.toInt.natAbs at this
    omega
  have hmul := Nat.mul_le_of_le_div _ _ _ hquot
  have hb0 : b.toInt.natAbs ≠ 0 := fun h0 => by simp [h0] at hquot
  have hb1 : b.toInt ≠ 1 := fun h1 => by rw [h1, Int.tdiv_one] at hge; omega
  exact h ⟨BitVec.eq_of_toInt_eq (show a.toInt = -2 ^ 31 by omega), BitVec.eq_of_toInt_eq (show b.toInt = -1 by omega)⟩

/-- The quotient word stands for the exact quotient rounded toward zero, where that fits (R172). -/
theorem toInt_intQuotient {a b : Word} (h : ¬ (a = 0x80000000 ∧ b = 0xFFFFFFFF)) :
    (intQuotient a b).toInt = Int.tdiv a.toInt b.toInt := by
  have habs := Int.natAbs_tdiv_le_natAbs a.toInt b.toInt
  have hle : -2 ^ 31 ≤ a.toInt := BitVec.le_toInt a
  have hlt : a.toInt < 2 ^ 31 := BitVec.toInt_lt
  have hfits := tdiv_toInt_lt h
  exact BitVec.toInt_ofInt_eq_self (by decide) (by simp only [signed]; omega) hfits

/-- The remainder of the division toward zero has no other sign than the dividend. -/
theorem tmod_sign (a b : Int) : (0 < Int.tmod a b → 0 < a) ∧ (Int.tmod a b < 0 → a < 0) := by
  constructor
  · intro h
    by_contra ha
    have := Int.tmod_nonneg b (a := -a) (by omega)
    rw [Int.neg_tmod] at this
    omega
  · intro h
    by_contra ha
    have := Int.tmod_nonneg b (a := a) (by omega)
    omega

/-- Settles O19: the quotient word is the library's division toward zero, whose remainder has the stated bounds; the one
quotient that does not fit wraps. -/
theorem integerQuotientTruncates : Obligations.IntegerQuotientTruncates := by
  refine ⟨fun a b hb hfits => ⟨Int.tmod a.toInt b.toInt, ?exact, ?smaller, tmod_sign _ _⟩, by decide⟩
  case exact =>
    rw [toInt_intQuotient hfits, mul_comm]
    exact (Int.mul_tdiv_add_tmod _ _).symm
  case smaller =>
    have hb0 : b.toInt ≠ 0 := fun h => hb (BitVec.eq_of_toInt_eq h)
    rw [Int.natAbs_tmod]
    exact Nat.mod_lt _ (Int.natAbs_pos.mpr hb0)

/-! ### FMODE and IMODE -/

theorem exec_fmode (s : State) : exec .fmode s = .next ((s.setMode .float).advance 0) := rfl

theorem exec_imode (s : State) : exec .imode s = .next ((s.setMode .int).advance 0) := rfl

/-- What the switches share: `mode` written, then the advance over the opcode alone. -/
theorem setMode_advance_zero (s : State) (v : Mode) :
    (s.setMode v).advance 0 = { s with mode := v, ip := s.ip + 1 } := by
  rw [advance_zero]; rfl

/-- Settles O20: each switch is a write of `mode` and the advance. -/
theorem modeSwitchesKeepTheBits : Obligations.ModeSwitchesKeepTheBits := by
  refine ⟨rfl, rfl, fun s => ⟨?fmode, ?imode⟩⟩
  case fmode => rw [exec_fmode, setMode_advance_zero]
  case imode => rw [exec_imode, setMode_advance_zero]

/-! ### JGT, JLT and JEQ -/

theorem exec_jgt (off : Word) (s : State) : exec (.jgt off) s = .next (s.condJump (· == .greater) off) := rfl

theorem exec_jlt (off : Word) (s : State) : exec (.jlt off) s = .next (s.condJump (· == .less) off) := rfl

theorem exec_jeq (off : Word) (s : State) : exec (.jeq off) s = .next (s.condJump (· == .equal) off) := rfl

/-- Everything a conditional jump can do: the latch of `cmp` and the write of `ip`, two cells past the target where it is
taken (R124, decision D17). -/
theorem condJump_eq (s : State) (wanted : CmpResult) (off : Word) :
    s.condJump (· == wanted) off =
      { s with cmp := s.compare, ip := if s.compare = wanted then s.ip + off + 2 else s.ip + 2 } := by
  simp only [State.condJump, beq_iff_eq]
  split
  · rw [advance_one, State.setIp_ip, eaRel_eq_add]; rfl
  · rw [advance_one]; rfl

/-- Settles O31: the three are one operation, at the outcome each waits for. -/
theorem conditionalJumpsLatchAndBranch : Obligations.ConditionalJumpsLatchAndBranch := by
  intro s off
  refine ⟨rfl, rfl, rfl, ?jgt, ?jlt, ?jeq⟩
  case jgt => rw [exec_jgt, condJump_eq]
  case jlt => rw [exec_jlt, condJump_eq]
  case jeq => rw [exec_jeq, condJump_eq]

/-- Settles O32: the comparison has exactly one of its three outcomes. -/
theorem exactlyOneConditionalJumpIsTaken : Obligations.ExactlyOneConditionalJumpIsTaken := by
  intro s off hoff
  refine ⟨_, _, _, exec_jgt off s, exec_jlt off s, exec_jeq off s, ?one, ?apart, ?frame⟩
  case one => cases hcmp : s.compare <;> simp [condJump_eq, hcmp]
  case apart =>
    intro h
    exact hoff (by simpa using h)
  case frame => simp [condJump_eq]

/-! ### HALT and PAUSE -/

theorem exec_halt (s : State) : exec .halt s = .next ((s.setStatus .halted).advance 0) := rfl

theorem exec_pause (s : State) : exec .pause s = .next ((s.setStatus .paused).advance 0) := rfl

/-- What the two share: `status` written, then the advance over the opcode alone. -/
theorem setStatus_advance_zero (s : State) (v : Status) :
    (s.setStatus v).advance 0 = { s with status := v, ip := s.ip + 1 } := by
  rw [advance_zero]; rfl

/-- Settles O34: each is a write of `status` and the advance. -/
theorem haltAndPauseSetStatus : Obligations.HaltAndPauseSetStatus := by
  refine ⟨rfl, rfl, fun s => ⟨?halt, ?pause⟩⟩
  case halt => rw [exec_halt, setStatus_advance_zero]
  case pause => rw [exec_pause, setStatus_advance_zero]

/-! ### GROW -/

theorem exec_grow_below {s : State} (h : s.regionCount < Config.maxRegions) :
    exec .grow s = .next (s.addRegion.advance 0) := if_neg (Nat.not_le.mpr h)

theorem exec_grow_full {s : State} (h : Config.maxRegions ≤ s.regionCount) :
    exec .grow s = .next (s.raise .regionFault (BitVec.ofNat 32 (s.regionCount * Config.regionSize))) := if_pos h

/-- The advance writes `ip` alone, so it changes no read. -/
theorem memRead_advance (s : State) (k : Nat) (a : Word) : (s.advance k).memRead a = s.memRead a :=
  memRead_congr s (s.advance k) a rfl rfl

/-- An address past the regions that exist reads as 0 in a new region too. -/
theorem memRead_addRegion_new {s : State} {a : Word} (h : s.regionCount * Config.regionSize ≤ a.toNat) :
    s.allocated a = false ∧ s.addRegion.memRead a = 0 := by
  have hnew : s.allocated a = false :=
    Bool.eq_false_iff.mpr fun halloc => absurd ((allocated_iff s a).mp halloc) (Nat.not_lt.mpr h)
  exact ⟨hnew, (memRead_addRegion s a).trans (memRead_unallocated s a hnew)⟩

/-- Settles O35: below the limit a zeroed region and the advance, at the limit the fault with 2^32 wrapped to 0. -/
theorem growAddsOneZeroedRegion : Obligations.GrowAddsOneZeroedRegion := by
  refine ⟨rfl, fun s => ⟨?below, ?full⟩⟩
  case below =>
    intro hlt
    refine ⟨_, exec_grow_below hlt, by rw [advance_zero]; rfl, ?reads, ?fresh⟩
    case reads => intro a; rw [memRead_advance, memRead_addRegion]
    case fresh =>
      intro a hlow hhigh
      obtain ⟨hold, hread⟩ := memRead_addRegion_new (s := s) hlow
      exact ⟨hold, (allocated_iff s.addRegion a).mpr hhigh, hread⟩
  case full =>
    intro hfull
    have hwrap : BitVec.ofNat 32 (s.regionCount * Config.regionSize) = 0 := by rw [hfull]; rfl
    rw [exec_grow_full (Nat.le_of_eq hfull.symm), hwrap]; rfl

/-! ### SYS -/

theorem exec_sys_answered {s : State} (h : s.syscallTurn.answered = true) (arg : Word) :
    exec (.sys arg) s = .next (((s.syscallExchange (signed s.bus) (signed arg)).setBus
      (Config.hostAnswer s.syscallCount (signed s.bus) (signed arg))).advance 1) := if_pos h

theorem exec_sys_unanswered {s : State} (h : s.syscallTurn.answered = false) (arg : Word) :
    exec (.sys arg) s = .fault .syscallUnanswered := by simp [exec, execSys, h]

/-- Settles O36: the exchange, the host's word in `bus` and the advance; or no next state at all. -/
theorem sysExchangesWithTheHost : Obligations.SysExchangesWithTheHost := by
  intro s arg
  refine ⟨rfl, ?answered, fun h => exec_sys_unanswered h arg⟩
  case answered =>
    intro h
    rw [exec_sys_answered h, advance_one]; rfl

/-- A request that changes the state has no answer, so it is refused inside a syscall (R241). -/
theorem answerInSyscall_of_no_answer {s : State} {r : HostRequest} (h : s.inspect r = none) :
    s.answerInSyscall r = .response r .refused := by rw [State.answerInSyscall, h]; rfl

theorem hostReadAnswer_allocated {s : State} {a : Word} (h : s.allocated a = true) :
    s.hostReadAnswer a = .cell (s.memRead a) := by
  rw [memRead_allocated s a h]; exact if_pos h

theorem hostReadAnswer_unallocated {s : State} {a : Word} (h : s.allocated a = false) :
    s.hostReadAnswer a = .refused := by simp [State.hostReadAnswer, h]

/-- Inside a syscall a memory-port read is answered as outside one. -/
theorem answerInSyscall_hostRead (s : State) (a : Word) :
    s.answerInSyscall (.hostRead a) = .response (.hostRead a) (s.hostReadAnswer a) := rfl

/-- Inside a syscall the status is answered by its code. -/
theorem answerInSyscall_getStatus (s : State) :
    s.answerInSyscall .getStatus = .response .getStatus (.statusCode (statusCode s.status)) := rfl

/-- Settles O37: the inspections' own answers; every other request has none and is refused. -/
theorem requestsInsideASyscallOnlyRead : Obligations.RequestsInsideASyscallOnlyRead := by
  intro s
  refine ⟨rfl, ?running, ?paused, ?notStarted, rfl, rfl, ?cell, ?refused, ?changes⟩
  case running => intro h; rw [answerInSyscall_getStatus, h]; rfl
  case paused => intro h; rw [answerInSyscall_getStatus, h]; rfl
  case notStarted => intro h; rw [answerInSyscall_getStatus, h]; rfl
  case cell => intro a h; rw [answerInSyscall_hostRead, hostReadAnswer_allocated h]
  case refused => intro a h; rw [answerInSyscall_hostRead, hostReadAnswer_unallocated h]
  case changes =>
    intro r a v hr
    simp only [List.mem_cons, List.not_mem_nil, or_false] at hr
    refine answerInSyscall_of_no_answer ?_
    obtain rfl | rfl | rfl | rfl | rfl | rfl | rfl | rfl := hr <;> rfl

end Sys2Proof.Machine
end

section
/-! What one instruction can do: which registers each writes, and the four kinds of effect that every later proof about
steps goes through (10_state.md, 40_step_cycle.md, 60_exceptions.md). -/
namespace Sys2Proof.Machine

/-! ### Who writes what -/

/-- Everything DIV can do: the fault of R281, or a write of `hi` and `lo` and the advance. -/
theorem exec_div_cases (s : State) :
    (s.mode = .int ∧ s.latchB = 0 ∧ exec .div s = .next (s.raise .divideByZero 0)) ∨
      ∃ h l, exec .div s = .next ((s.setHiLo h l).advance 0) := by
  cases hmode : s.mode with
  | int =>
    by_cases hB : s.latchB = 0
    · exact .inl ⟨rfl, hB, exec_div_zero hmode hB⟩
    · exact .inr ⟨_, _, exec_div_int hmode hB⟩
  | float => exact .inr ⟨_, _, exec_div_float hmode⟩

/-- Everything GROW can do: a region and the advance below the limit, the fault of R283 from it on. -/
theorem exec_grow_cases (s : State) :
    (s.regionCount < Config.maxRegions ∧ exec .grow s = .next (s.addRegion.advance 0)) ∨
      (Config.maxRegions ≤ s.regionCount ∧
        exec .grow s = .next (s.raise .regionFault (BitVec.ofNat 32 (s.regionCount * Config.regionSize)))) := by
  obtain h | h := Nat.lt_or_ge s.regionCount Config.maxRegions
  · exact .inl ⟨h, exec_grow_below h⟩
  · exact .inr ⟨h, exec_grow_full h⟩

/-- Where SYS leaves a next state, the host has answered. -/
theorem exec_sys_next {s t : State} {arg : Word} (h : exec (.sys arg) s = .next t) :
    t = ((s.syscallExchange (signed s.bus) (signed arg)).setBus
      (Config.hostAnswer s.syscallCount (signed s.bus) (signed arg))).advance 1 := by
  cases hanswered : s.syscallTurn.answered with
  | true => rw [exec_sys_answered hanswered] at h; exact (Host.Outcome.next.inj h).symm
  | false => rw [exec_sys_unanswered hanswered] at h; cases h

/-- Settles O22: instruction by instruction, the updates that its equation names. -/
theorem registerWriters : Obligations.RegisterWriters := by
  intro i s t h
  cases i with
  | strp off | str off | sta addr =>
    cases h
    obtain ⟨_, hstore⟩ | ⟨_, hstore⟩ := store_cases s _ s.bus <;> rw [hstore] <;> simp [Instr.opcode]
  | jgt off | jlt off | jeq off => cases h; simp [Instr.opcode, condJump_eq]
  | div =>
    obtain ⟨_, _, hdiv⟩ | ⟨_, _, hdiv⟩ := exec_div_cases s <;> rw [hdiv] at h <;> cases h <;> simp [Instr.opcode]
  | grow =>
    obtain ⟨_, hgrow⟩ | ⟨_, hgrow⟩ := exec_grow_cases s <;> rw [hgrow] at h <;> cases h <;> simp [Instr.opcode]
  | sys arg => rw [exec_sys_next h]; simp [Instr.opcode]
  | ldrp off | ldr off | lda addr => cases h; simp [Instr.opcode, State.load]
  | _ => cases h; simp [Instr.opcode]

/-! ### The kinds of effect -/

/-- What an instruction that neither stores, grows nor faults leaves alone; `status` it may set to `Paused` or
`Halted`. -/
structure RegisterFrame (s t : State) : Prop where
  mem : t.mem = s.mem
  regionCount : t.regionCount = s.regionCount
  fault : t.fault = s.fault
  faultIp : t.faultIp = s.faultIp
  faultInfo : t.faultInfo = s.faultInfo
  bpSet : t.bpSet = s.bpSet
  status : t.status = s.status ∨ t.status = .paused ∨ t.status = .halted

/-- The rows of R285 for one instruction: when it raises which fault with which information. -/
inductive FaultRow (s : State) : Instr → FaultCause → Word → Prop
  | divideByZero (hint : s.mode = .int) (hB : s.latchB = 0) : FaultRow s .div .divideByZero 0
  | store {i : Instr} {ea : Word} (hea : s.storeAddress i = some ea) (hunalloc : s.allocated ea = false) :
      FaultRow s i .regionFault ea
  | grow (hfull : Config.maxRegions ≤ s.regionCount) :
      FaultRow s .grow .regionFault (BitVec.ofNat 32 (s.regionCount * Config.regionSize))

/-- The kinds of next state an instruction has. -/
inductive ExecEffect (s : State) : Instr → State → Prop
  | registers {i : Instr} {t : State} (hframe : RegisterFrame s t) : ExecEffect s i t
  | stored {i : Instr} {ea : Word} (hea : s.storeAddress i = some ea) (halloc : s.allocated ea = true) :
      ExecEffect s i ((s.setCell ea s.bus).advance 1)
  | grown (hlt : s.regionCount < Config.maxRegions) : ExecEffect s .grow (s.addRegion.advance 0)
  | faulted {i : Instr} {c : FaultCause} {info : Word} (hrow : FaultRow s i c info) : ExecEffect s i (s.raise c info)

/-- A store writes its cell or takes its row of R285. -/
theorem execEffect_store {s : State} {i : Instr} {ea : Word} (hea : s.storeAddress i = some ea) :
    ExecEffect s i (s.store ea s.bus) := by
  obtain ⟨halloc, hstore⟩ | ⟨hunalloc, hstore⟩ := store_cases s ea s.bus <;> rw [hstore]
  · exact .stored hea halloc
  · exact .faulted (.store hea hunalloc)

/-- Everything an instruction can do, where it leaves a next state. -/
theorem execEffect_of_next {i : Instr} {s t : State} (h : exec i s = .next t) : ExecEffect s i t := by
  cases i with
  | strp off | str off | sta addr => cases h; exact execEffect_store rfl
  | jgt off | jlt off | jeq off =>
    cases h; rw [condJump_eq]; exact .registers ⟨rfl, rfl, rfl, rfl, rfl, rfl, .inl rfl⟩
  | div =>
    obtain ⟨hint, hB, hdiv⟩ | ⟨_, _, hdiv⟩ := exec_div_cases s <;> rw [hdiv] at h <;> cases h
    · exact .faulted (.divideByZero hint hB)
    · exact .registers ⟨rfl, rfl, rfl, rfl, rfl, rfl, .inl rfl⟩
  | grow =>
    obtain ⟨hlt, hgrow⟩ | ⟨hfull, hgrow⟩ := exec_grow_cases s <;> rw [hgrow] at h <;> cases h
    · exact .grown hlt
    · exact .faulted (.grow hfull)
  | sys arg => rw [exec_sys_next h]; exact .registers ⟨rfl, rfl, rfl, rfl, rfl, rfl, .inl rfl⟩
  | halt => cases h; exact .registers ⟨rfl, rfl, rfl, rfl, rfl, rfl, .inr (.inr rfl)⟩
  | pause => cases h; exact .registers ⟨rfl, rfl, rfl, rfl, rfl, rfl, .inr (.inl rfl)⟩
  | _ => cases h; exact .registers ⟨rfl, rfl, rfl, rfl, rfl, rfl, .inl rfl⟩

theorem FaultRow.cause_ne_none {s : State} {i : Instr} {c : FaultCause} {info : Word} (h : FaultRow s i c info) :
    c ≠ .none := by
  cases h <;> exact FaultCause.noConfusion

/-- Settles O38: of the four kinds only a fault writes the fault registers, and its rows are the table's. -/
theorem faultCauseTable : Obligations.FaultCauseTable := by
  intro i s t h hchanged
  cases execEffect_of_next h with
  | registers hframe => simp [hframe.fault, hframe.faultIp, hframe.faultInfo] at hchanged
  | stored => simp at hchanged
  | grown => simp at hchanged
  | @faulted _ c info hrow =>
    refine ⟨c, info, rfl, ?_⟩
    cases hrow with
    | divideByZero hint hB => exact .inl ⟨rfl, hint, hB, rfl, rfl⟩
    | store hea hunalloc => exact .inr (.inl ⟨hea, hunalloc, rfl⟩)
    | grow hfull => exact .inr (.inr ⟨rfl, hfull, rfl, rfl⟩)

/-! ### The instruction pointer -/

/-- Where a conditional jump goes: to the target and two cells on if the outcome is the one it waits for, else past
itself (decision D17). -/
theorem condJump_ip_cases (s : State) (wanted : CmpResult) (off : Word) :
    (s.compare = wanted ∧ (s.condJump (· == wanted) off).ip = s.ip + off + 2) ∨
      (s.condJump (· == wanted) off).ip = s.ip + 2 := by
  rw [condJump_eq]
  by_cases hcmp : s.compare = wanted
  · exact .inl ⟨hcmp, if_pos hcmp⟩
  · exact .inr (if_neg hcmp)

/-- An instruction that leaves a next state without a fault puts `ip` past itself, unless it is a jump that is taken. -/
theorem exec_ip {i : Instr} {s t : State} (hjmp : i ≠ .jmp) (h : exec i s = .next t) :
    (∃ c info, FaultRow s i c info ∧ t = s.raise c info) ∨
    (∃ off, ((i = .jgt off ∧ s.compare = .greater) ∨ (i = .jlt off ∧ s.compare = .less) ∨
      (i = .jeq off ∧ s.compare = .equal)) ∧ t.ip = s.ip + off + 2) ∨
    t.ip = s.ip + BitVec.ofNat 32 (i.opcode.operandCount + 1) := by
  have hadvance (u : State) (k : Nat) : (u.advance k).ip = u.ip + BitVec.ofNat 32 (k + 1) := w32_advance u.ip k
  cases i with
  | jmp => exact absurd rfl hjmp
  | strp off | str off | sta addr =>
    cases h
    obtain ⟨_, hstore⟩ | ⟨hunalloc, hstore⟩ := store_cases s _ s.bus <;> rw [hstore]
    · exact .inr (.inr (hadvance _ 1))
    · exact .inl ⟨_, _, .store rfl hunalloc, rfl⟩
  | jgt off =>
    cases h
    exact .inr ((condJump_ip_cases s .greater off).imp_left fun ⟨hcmp, hip⟩ => ⟨off, .inl ⟨rfl, hcmp⟩, hip⟩)
  | jlt off =>
    cases h
    exact .inr ((condJump_ip_cases s .less off).imp_left fun ⟨hcmp, hip⟩ => ⟨off, .inr (.inl ⟨rfl, hcmp⟩), hip⟩)
  | jeq off =>
    cases h
    exact .inr ((condJump_ip_cases s .equal off).imp_left fun ⟨hcmp, hip⟩ => ⟨off, .inr (.inr ⟨rfl, hcmp⟩), hip⟩)
  | div =>
    obtain ⟨hint, hB, hdiv⟩ | ⟨_, _, hdiv⟩ := exec_div_cases s <;> rw [hdiv] at h <;> cases h
    · exact .inl ⟨_, _, .divideByZero hint hB, rfl⟩
    · exact .inr (.inr (hadvance _ 0))
  | grow =>
    obtain ⟨hlt, hgrow⟩ | ⟨hfull, hgrow⟩ := exec_grow_cases s <;> rw [hgrow] at h <;> cases h
    · exact .inr (.inr (hadvance _ 0))
    · exact .inl ⟨_, _, .grow hfull, rfl⟩
  | sys arg => rw [exec_sys_next h]; exact .inr (.inr (hadvance _ 1))
  | ldrp off | ldr off | lda addr | ldi imm => cases h; exact .inr (.inr (hadvance _ 1))
  | _ => cases h; exact .inr (.inr (hadvance _ 0))

/-- Settles O8: where each instruction leaves `ip`, `JMP`'s lack of an advance, and the reads after writes. -/
theorem advanceByOperandsPlusOne : Obligations.AdvanceByOperandsPlusOne := by
  refine ⟨?advance, fun s => ⟨_, exec_jmp s, eaRel_eq_add s.ip s.bus⟩, ?written, ?unallocated⟩
  case advance =>
    intro i s t hjmp h
    obtain ⟨c, info, hrow, rfl⟩ | hmoved := exec_ip hjmp h
    · exact .inl ⟨c, info, hrow.cause_ne_none, rfl⟩
    · exact .inr hmoved
  case written => intro s a v halloc; rw [memRead_setCell s a a v halloc, if_pos rfl]
  case unallocated =>
    intro s a hpast
    exact memRead_unallocated s a (decide_eq_false (Nat.not_lt.mpr hpast))

/-- Settles O10: the read laws of a cell write, of a new region and of an unallocated address. -/
theorem writeThenReadCell : Obligations.WriteThenReadCell :=
  ⟨memRead_setCell, memRead_addRegion, memRead_unallocated⟩

/-! ### Completion -/

/-- An outcome in `s` is a next state, or the hang of a syscall that the host never answers (R223(a)); never a refusal. -/
def Completes (s : State) (o : Host.Outcome State Fault Refusal) : Prop :=
  (∃ t, o = .next t) ∨ (s.syscallTurn.answered = false ∧ o = .fault .syscallUnanswered)

theorem completes_next (s t : State) : Completes s (.next t) := .inl ⟨t, rfl⟩

theorem completes_exec (i : Instr) (s : State) : Completes s (exec i s) := by
  cases i with
  | div => obtain ⟨_, _, h⟩ | ⟨_, _, h⟩ := exec_div_cases s <;> rw [h] <;> exact completes_next s _
  | grow => obtain ⟨_, h⟩ | ⟨_, h⟩ := exec_grow_cases s <;> rw [h] <;> exact completes_next s _
  | sys arg =>
    cases hanswered : s.syscallTurn.answered with
    | true => rw [exec_sys_answered hanswered]; exact completes_next s _
    | false => exact .inr ⟨hanswered, exec_sys_unanswered hanswered arg⟩
  | _ => exact completes_next s _

theorem completes_processorStep (s : State) : Completes s (processorStep s) := by
  obtain ⟨i, _, _, hexec⟩ | ⟨_, _, hraise⟩ := processorStep_cases s
  · rw [hexec]; exact completes_exec i s
  · rw [hraise]; exact completes_next s _

theorem completes_guardedStep (s : State) : Completes s (guardedStep s) := by
  obtain ⟨_, hstop⟩ | ⟨_, hproc⟩ := guardedStep_cases s
  · rw [hstop]; exact completes_next s _
  · rw [hproc]; exact completes_processorStep s

theorem completes_stepOverCommand (s : State) : Completes s (stepOverCommand s) := by
  cases hstatus : s.status with
  | paused => rw [stepOverCommand_paused hstatus]; exact completes_guardedStep s
  | notStarted =>
    simp only [stepOverCommand, hstatus]
    obtain ⟨t, hnext⟩ | ⟨hanswered, hfault⟩ := completes_guardedStep s
    · rw [hnext]; exact completes_next s _
    · rw [hfault]; exact .inr ⟨hanswered, rfl⟩
  | empty | running | halted => simp only [stepOverCommand, hstatus]; exact completes_next s s

theorem completes_hostRequest (r : HostRequest) (s : State) : Completes s (hostRequest r s) := by
  cases r with
  | stepOver => exact completes_stepOverCommand s
  | _ => exact completes_next s _

theorem completes_step (s : State) : Completes s (step s) := by
  obtain ⟨_, hstep⟩ | ⟨_, _, hstep⟩ | ⟨_, r, rest, _, hstep⟩ := step_cases s <;> rw [hstep]
  · exact completes_guardedStep s
  · exact completes_next s s
  · exact completes_hostRequest r { s with hostQueue := rest }

/-- Settles O40: every outcome of a step completes, and the hang needs a host that does not answer. -/
theorem everyStepHasANextState : Obligations.EveryStepHasANextState := by
  intro s
  obtain ⟨t, hnext⟩ | ⟨hanswered, hfault⟩ := completes_step s
  · exact ⟨fun _ => ⟨t, hnext⟩, fun r => by simp [hnext]⟩
  · exact ⟨fun h => by simp [hanswered] at h, fun r => by simp [hfault]⟩

end Sys2Proof.Machine
end

section
/-! The machine's steps one request at a time: the fetched instruction, the commands of the host and its memory port, and
reset (40_step_cycle.md, 45_run_control.md, 10_state.md section 8). -/
namespace Sys2Proof.Machine

/-! ### The Processor's step -/

theorem fetchWords_eq (s : State) : s.fetchWords = [s.memRead s.ip, s.memRead (s.ip + 1)] := by
  rw [State.fetchWords, w32_next]

/-- Where the fetched words decode, the Processor's step is the instruction's. -/
theorem processorStep_of_decode {s : State} {i : Instr} {left : List Word}
    (h : decode [s.memRead s.ip, s.memRead (s.ip + 1)] = .ok i left) : processorStep s = exec i s := by
  rw [← fetchWords_eq] at h
  simp only [processorStep, h]

/-- So is a guarded step that no breakpoint stops. -/
theorem guardedStep_of_decode {s : State} {i : Instr} {left : List Word}
    (hoff : s.bpEnabled = false ∨ s.ip ∉ s.bpSet)
    (h : decode [s.memRead s.ip, s.memRead (s.ip + 1)] = .ok i left) : guardedStep s = exec i s :=
  (guardedStep_off_breakpoint hoff).trans (processorStep_of_decode h)

/-- Settles O5: the three ways to a guarded step, each off the breakpoint; taking the request changes no fetched word. -/
theorem stepRunsTheDecodedInstruction : Obligations.StepRunsTheDecodedInstruction := by
  intro s i left queue hdecode _ hoff
  have htaken : guardedStep { s with hostQueue := queue } = exec i { s with hostQueue := queue } :=
    guardedStep_of_decode (s := { s with hostQueue := queue }) hoff hdecode
  refine ⟨?running, ?paused, ?notStarted⟩
  case running => intro hrun; exact (step_of_running hrun).trans (guardedStep_of_decode hoff hdecode)
  case paused => intro hpaused hqueue; exact (step_stepOver_paused hpaused hqueue).trans htaken
  case notStarted =>
    intro hnotStarted hqueue t hexec
    exact (step_of_request (by simp [hnotStarted]) hqueue).trans
      (stepOverCommand_notStarted_of_next (s := { s with hostQueue := queue }) hnotStarted (htaken.trans hexec))

/-- Settles O7: an unallocated opcode word reads as 0, which is `NOP`, whose step is the advance. -/
theorem fetchFromUnallocatedMemoryIsNop : Obligations.FetchFromUnallocatedMemoryIsNop := by
  intro s hrun hoff hunalloc
  have hnop : decode [s.memRead s.ip, s.memRead (s.ip + 1)] = .ok .nop [s.memRead (s.ip + 1)] := by
    rw [memRead_unallocated s s.ip hunalloc]; exact decode_zero _
  rw [step_of_running hrun, guardedStep_of_decode hoff hnop, exec_nop, advance_zero_eq_update]

/-! ### The run commands -/

theorem continued_notStarted_or_paused {s : State} (h : s.status = .notStarted ∨ s.status = .paused) :
    s.continued = s.setStatus .running := by
  obtain h | h := h <;> simp only [State.continued, h]

theorem ne_running_of_notStarted_or_paused {st : Status} (h : st = .notStarted ∨ st = .paused) : st ≠ .running := by
  obtain rfl | rfl := h <;> decide

/-- `continue_` in `NotStarted` or `Paused` takes the request and writes `status` (R251). -/
theorem step_continueRun {s : State} {queue : List HostRequest} (h : s.status = .notStarted ∨ s.status = .paused)
    (hqueue : s.hostQueue = .continueRun :: queue) :
    step s = .next { s with status := .running, hostQueue := queue } :=
  (step_of_request (ne_running_of_notStarted_or_paused h) hqueue).trans
    (congrArg Host.Outcome.next (continued_notStarted_or_paused (s := { s with hostQueue := queue }) h))

/-- At an enabled breakpoint `step_over` only takes the request and leaves `Paused` (R255). -/
theorem step_stepOver_at_breakpoint {s : State} {queue : List HostRequest}
    (h : s.status = .paused ∨ s.status = .notStarted) (henabled : s.bpEnabled = true) (hmem : s.ip ∈ s.bpSet)
    (hqueue : s.hostQueue = .stepOver :: queue) :
    step s = .next { s with status := .paused, hostQueue := queue } := by
  have hstop : guardedStep { s with hostQueue := queue } = .next { s with status := .paused, hostQueue := queue } :=
    guardedStep_at_breakpoint (s := { s with hostQueue := queue }) henabled hmem
  obtain hpaused | hnotStarted := h
  · exact (step_stepOver_paused hpaused hqueue).trans hstop
  · exact (step_of_request (by simp [hnotStarted]) hqueue).trans
      (stepOverCommand_notStarted_of_next (s := { s with hostQueue := queue }) hnotStarted hstop)

/-- Settles O42: each command meets the guarded step's stop, `continue_` one step later. -/
theorem noProgressAtABreakpoint : Obligations.NoProgressAtABreakpoint := by
  intro s queue hstatus henabled hmem
  refine ⟨step_stepOver_at_breakpoint hstatus henabled hmem, fun hqueue => ⟨step_continueRun hstatus.symm hqueue, ?_⟩⟩
  exact (step_of_running rfl).trans (guardedStep_at_breakpoint henabled hmem)

/-- Settles O44: the start of the loop, and the loop's guarded steps, which keep the queue. -/
theorem continueSetsRunning : Obligations.ContinueSetsRunning := by
  refine ⟨fun s queue => step_continueRun, fun s t hrun hstep => ?_⟩
  have hguarded := (step_of_running hrun).symm.trans hstep
  exact ⟨hguarded, guardedStep_hostQueue hguarded⟩

/-- Settles O55: outside `continue_` a step without a request is the idle one. -/
theorem idleWithoutARequest : Obligations.IdleWithoutARequest := by
  intro s hidle hqueue
  obtain ⟨hrun, _⟩ | ⟨_, _, hstep⟩ | ⟨_, r, rest, hcons, _⟩ := step_cases s
  · exact absurd hrun hidle
  · exact hstep
  · rw [hqueue] at hcons; cases hcons

/-! ### The start of the machine -/

theorem initialised_empty {s : State} (h : s.status = .empty) :
    s.initialised =
      { s with regionCount := 1, mem := Memory.clear s.mem 0 Config.regionSize, status := .notStarted } := by
  simp only [State.initialised, h]

theorem initialised_of_ne_empty {s : State} (h : s.status ≠ .empty) : s.initialised = s := by
  cases hstatus : s.status with
  | empty => exact absurd hstatus h
  | _ => simp only [State.initialised, hstatus]

/-- The one region that the start creates is cleared, and past it nothing is allocated (R51). -/
theorem memRead_initialised {s : State} (h : s.status = .empty) (a : Word) : s.initialised.memRead a = 0 := by
  rw [initialised_empty h]
  cases halloc : State.allocated { s with
      regionCount := 1, mem := Memory.clear s.mem 0 Config.regionSize, status := .notStarted } a with
  | false => exact memRead_unallocated _ a halloc
  | true =>
    have hlt := (allocated_iff _ a).mp halloc
    rw [memRead_allocated _ a halloc, Memory.read_clear, if_pos ⟨Nat.zero_le _, by simpa using hlt⟩]

/-- Settles O46: in `Empty` region 0 is created and cleared; elsewhere the request is only taken. -/
theorem initializeActsInEmptyOnly : Obligations.InitializeActsInEmptyOnly := by
  intro s queue hqueue
  constructor
  · intro hempty
    have htaken := initialised_empty (s := { s with hostQueue := queue }) hempty
    refine ⟨_, step_of_request (by simp [hempty]) hqueue, by rw [htaken], ?allocated,
      memRead_initialised (s := { s with hostQueue := queue }) hempty⟩
    case allocated =>
      intro a ha
      rw [htaken]
      exact (allocated_iff _ a).mpr (by simpa [Config.regionSize] using ha)
  · intro hother
    have hne : s.status ≠ .empty := by obtain h | h | h := hother <;> rw [h] <;> decide
    have hidle : s.status ≠ .running := by obtain h | h | h := hother <;> rw [h] <;> decide
    exact (step_of_request hidle hqueue).trans
      (congrArg Host.Outcome.next (initialised_of_ne_empty (s := { s with hostQueue := queue }) hne))

/-- Settles O58: the values are `State.reset`'s own; with no region nothing is allocated, so every address reads as 0. -/
theorem resetMeetsTheInvariantAndValues : Obligations.ResetMeetsTheInvariantAndValues := by
  have hnone (a : Word) : State.reset.allocated a = false := decide_eq_false (Nat.not_lt_zero _)
  exact ⟨rfl, rfl, rfl, rfl, rfl, rfl, rfl, rfl, rfl, rfl, rfl, rfl, rfl, rfl, rfl,
    fun a => ⟨hnone a, memRead_unallocated _ a (hnone a)⟩, by decide⟩

/-! ### Inspections and the memory port -/

/-- An inspection takes the request and passes its answer to the host (R257 to R260, R262). -/
theorem step_of_inspect {s : State} {r : HostRequest} {queue : List HostRequest} {answer : HostResponse}
    (hidle : s.status ≠ .running) (hqueue : s.hostQueue = r :: queue) (h : s.inspect r = some answer) :
    step s = .next { s with portLog := s.portLog ++ [.response r answer], hostQueue := queue } := by
  refine (step_of_request hidle hqueue).trans (hostRequest_of_inspect (answer := answer) ?_)
  rw [← h]
  cases r <;> rfl

/-- Settles O50: the two inspections, at the codes of R38 and R41. -/
theorem statusAndFaultCodes : Obligations.StatusAndFaultCodes := by
  intro s queue hidle
  constructor
  · intro hqueue
    refine ⟨statusCode s.status, step_of_inspect hidle hqueue rfl, ?_, ?_, ?_, ?_⟩ <;> intro h <;> rw [h] <;> rfl
  · intro hqueue
    refine ⟨faultCode s.fault, step_of_inspect hidle hqueue rfl, ?_, ?_, ?_, ?_⟩ <;> intro h <;> rw [h] <;> rfl

theorem hostWritten_allocated {s : State} {a : Word} (h : s.allocated a = true) (v : Word) :
    s.hostWritten a v = s.setCell a v := if_pos h

theorem hostWritten_unallocated {s : State} {a : Word} (h : s.allocated a = false) (v : Word) :
    s.hostWritten a v = s.emit (.response (.hostWrite a v) .refused) := by simp [State.hostWritten, h]

/-- A host write of an allocated cell takes the request and writes that cell (R262). -/
theorem step_hostWrite_allocated {s : State} {a v : Word} {queue : List HostRequest} (hidle : s.status ≠ .running)
    (hqueue : s.hostQueue = .hostWrite a v :: queue) (h : s.allocated a = true) :
    step s = .next (State.setCell { s with hostQueue := queue } a v) :=
  (step_of_request hidle hqueue).trans
    (congrArg Host.Outcome.next (hostWritten_allocated (s := { s with hostQueue := queue }) h v))

/-- Settles O51: an allocated cell is written or answered, an unallocated one refused. -/
theorem memoryPortReachesAllocatedCells : Obligations.MemoryPortReachesAllocatedCells := by
  intro s a v queue hidle
  refine ⟨fun hqueue => ⟨?written, ?writeRefused⟩, fun hqueue => ⟨?answered, ?readRefused⟩⟩
  case written =>
    intro halloc
    have hread (b : Word) := memRead_setCell { s with hostQueue := queue } a b v halloc
    exact ⟨_, step_hostWrite_allocated hidle hqueue halloc, rfl, (hread a).trans (if_pos rfl),
      fun b hb => (hread b).trans (if_neg hb)⟩
  case writeRefused =>
    intro hunalloc
    exact (step_of_request hidle hqueue).trans
      (congrArg Host.Outcome.next (hostWritten_unallocated (s := { s with hostQueue := queue }) hunalloc v))
  case answered =>
    intro halloc
    exact step_of_inspect hidle hqueue (congrArg some (hostReadAnswer_allocated halloc))
  case readRefused =>
    intro hunalloc
    exact step_of_inspect hidle hqueue (congrArg some (hostReadAnswer_unallocated hunalloc))

end Sys2Proof.Machine
end

section
/-! What a step of the machine can do, and what every step keeps: the invariant, the cells, the regions, `status` and the
fault registers (10_state.md, 20_memory.md, 60_exceptions.md). -/
namespace Sys2Proof.Machine

/-! ### The Processor's step -/

/-- Everything the Processor's step can leave: the effect of the instruction fetched, or the fault of R280. -/
theorem processorStep_effect {s u : State} (h : processorStep s = .next u) :
    (∃ i left, decode [s.memRead s.ip, s.memRead (s.ip + 1)] = .ok i left ∧ ExecEffect s i u) ∨
      u = s.raise .invalidInstruction (s.memRead s.ip) := by
  obtain ⟨i, left, hdecode, hexec⟩ | ⟨_, _, hraise⟩ := processorStep_cases s
  · exact .inl ⟨i, left, fetchWords_eq s ▸ hdecode, execEffect_of_next (hexec.symm.trans h)⟩
  · exact .inr (Host.Outcome.next.inj (h.symm.trans hraise))

/-- Over one step of the Processor a cell changes only by a store to it. -/
theorem processorStep_memRead {s u : State} (h : processorStep s = .next u) (a : Word) :
    u.memRead a = s.memRead a ∨
      (s.allocated a = true ∧ u.memRead a = s.bus ∧
        ∃ i left, decode [s.memRead s.ip, s.memRead (s.ip + 1)] = .ok i left ∧ s.storeAddress i = some a) := by
  obtain ⟨i, left, hdecode, heffect⟩ | rfl := processorStep_effect h
  · cases heffect with
    | registers hframe => exact .inl (memRead_congr s u a hframe.mem hframe.regionCount)
    | @stored _ ea hea halloc =>
      rw [memRead_advance, memRead_setCell s ea a s.bus halloc]
      by_cases ha : a = ea
      · subst ha
        exact .inr ⟨halloc, if_pos rfl, i, left, hdecode, hea⟩
      · exact .inl (if_neg ha)
    | grown => exact .inl (by rw [memRead_advance, memRead_addRegion])
    | faulted => exact .inl (memRead_congr s _ a rfl rfl)
  · exact .inl (memRead_congr s _ a rfl rfl)

/-- Over one step of the Processor the regions change only by a GROW below the limit. -/
theorem processorStep_regionCount {s u : State} (h : processorStep s = .next u) :
    u.regionCount = s.regionCount ∨
      (u.regionCount = s.regionCount + 1 ∧
        ∃ left, decode [s.memRead s.ip, s.memRead (s.ip + 1)] = .ok .grow left) := by
  obtain ⟨i, left, hdecode, heffect⟩ | rfl := processorStep_effect h
  · cases heffect with
    | registers hframe => exact .inl hframe.regionCount
    | stored => exact .inl rfl
    | grown => exact .inr ⟨rfl, left, hdecode⟩
    | faulted => exact .inl rfl
  · exact .inl rfl

/-- The Processor itself only ever sets `status` to `Paused` or `Halted`. -/
theorem processorStep_status {s u : State} (h : processorStep s = .next u) :
    u.status = s.status ∨ u.status = .paused ∨ u.status = .halted := by
  obtain ⟨i, left, _, heffect⟩ | rfl := processorStep_effect h
  · cases heffect with
    | registers hframe => exact hframe.status
    | stored => exact .inl rfl
    | grown => exact .inl rfl
    | faulted => exact .inr (.inr rfl)
  · exact .inr (.inr rfl)

/-- One step of the Processor keeps the fault registers or is the raising of a fault. -/
theorem processorStep_fault {s u : State} (h : processorStep s = .next u) :
    (u.fault = s.fault ∧ u.faultIp = s.faultIp ∧ u.faultInfo = s.faultInfo) ∨
      ∃ c info, c ≠ .none ∧ u = s.raise c info := by
  obtain ⟨i, left, _, heffect⟩ | rfl := processorStep_effect h
  · cases heffect with
    | registers hframe => exact .inl ⟨hframe.fault, hframe.faultIp, hframe.faultInfo⟩
    | stored => exact .inl ⟨rfl, rfl, rfl⟩
    | grown => exact .inl ⟨rfl, rfl, rfl⟩
    | @faulted _ c info hrow => exact .inr ⟨c, info, hrow.cause_ne_none, rfl⟩
  · exact .inr ⟨_, _, FaultCause.noConfusion, rfl⟩

theorem processorStep_bpSet {s u : State} (h : processorStep s = .next u) : u.bpSet = s.bpSet := by
  obtain ⟨i, left, _, heffect⟩ | rfl := processorStep_effect h
  · cases heffect with
    | registers hframe => exact hframe.bpSet
    | stored => rfl
    | grown => rfl
    | faulted => rfl
  · rfl

/-! ### The memory part of the invariant -/

/-- The clauses of the invariant on the cells and the regions. -/
structure State.MemoryInv (s : State) : Prop where
  wf : Memory.wf s.mem = true
  cellsAllocated : s.cellsAllocated
  regionCount_le : s.regionCount ≤ Config.maxRegions

/-- The memory part depends on memory and the region count alone. -/
theorem State.MemoryInv.congr {s t : State} (h : s.MemoryInv) (hmem : t.mem = s.mem)
    (hcount : t.regionCount = s.regionCount) : t.MemoryInv := by
  obtain ⟨hwf, hcells, hle⟩ := h
  refine ⟨hmem ▸ hwf, ?_, hcount ▸ hle⟩
  rwa [State.cellsAllocated, hmem, hcount]

theorem State.MemoryInv.setCell {s : State} (h : s.MemoryInv) {a : Word} (halloc : s.allocated a = true) (v : Word) :
    (s.setCell a v).MemoryInv := by
  refine ⟨Memory.wf_write s.mem a.toNat v h.wf, fun c hc => ?_, h.regionCount_le⟩
  obtain rfl | hc := Memory.mem_write s.mem a.toNat v c hc
  · exact (allocated_iff s a).mp halloc
  · exact h.cellsAllocated c hc

theorem State.MemoryInv.addRegion {s : State} (h : s.MemoryInv) (hlt : s.regionCount < Config.maxRegions) :
    s.addRegion.MemoryInv := by
  refine ⟨Memory.wf_clear _ _ _ h.wf, fun c hc => ?_, hlt⟩
  obtain ⟨hold, _⟩ := Memory.mem_clear _ _ _ c hc
  exact (h.cellsAllocated c hold).trans_le (Nat.mul_le_mul_right _ (Nat.le_succ _))

/-- Where no region exists the start leaves no cell listed. -/
theorem State.MemoryInv.initialised {s : State} (h : s.MemoryInv) (hempty : s.status = .empty)
    (hnone : s.regionCount = 0) : s.initialised.MemoryInv := by
  rw [initialised_empty hempty]
  refine ⟨Memory.wf_clear _ _ _ h.wf, fun c hc => ?_, show 1 ≤ Config.maxRegions by decide⟩
  obtain ⟨hold, _⟩ := Memory.mem_clear _ _ _ c hc
  have := h.cellsAllocated c hold
  rw [hnone, Nat.zero_mul] at this
  exact absurd this (Nat.not_lt_zero _)

theorem processorStep_memoryInv {s u : State} (hinv : s.MemoryInv) (h : processorStep s = .next u) : u.MemoryInv := by
  obtain ⟨i, left, _, heffect⟩ | rfl := processorStep_effect h
  · cases heffect with
    | registers hframe => exact hinv.congr hframe.mem hframe.regionCount
    | stored _ halloc => exact (hinv.setCell halloc s.bus).congr rfl rfl
    | grown hlt => exact (hinv.addRegion hlt).congr rfl rfl
    | faulted => exact hinv.congr rfl rfl
  · exact hinv.congr rfl rfl

/-! ### The machine's step -/

/-- How RunControl itself can leave `status` (R39): as it is, `Running` by `continue_`, or `Paused` at a breakpoint. -/
inductive ControlStatus (s : State) : Status → Prop
  | same : ControlStatus s s.status
  | continued (hstatus : s.status = .notStarted ∨ s.status = .paused)
      (hqueue : s.hostQueue.head? = some .continueRun) : ControlStatus s .running
  | stopped (hrun : s.status = .running) : ControlStatus s .paused
  | stoppedStepOver (hstatus : s.status = .paused ∨ s.status = .notStarted)
      (hqueue : s.hostQueue.head? = some .stepOver) : ControlStatus s .paused

/-- The `status` after a step of the Processor: what that left, but `Paused` for a `step_over` in `NotStarted` (R253). -/
def statusAfter : Status → Status → Status
  | .notStarted, _ => .paused
  | .empty, st | .running, st | .paused, st | .halted, st => st

/-- The kinds of next state a step of the machine has: RunControl's, the Processor's, the start and the host's write. -/
inductive StepEffect (s : State) : State → Prop
  | control {t : State} (hview : t.programView = s.programView) (hqueue : t.hostQueue <:+ s.hostQueue)
      (hsorted : bpSorted s.bpSet = true → bpSorted t.bpSet = true) (hstatus : ControlStatus s t.status) :
      StepEffect s t
  | processor {q : List HostRequest} {u : State} (hruns : s.runsProcessor) (hqueue : q <:+ s.hostQueue)
      (hstep : processorStep { s with hostQueue := q } = .next u) :
      StepEffect s (u.setStatus (statusAfter s.status u.status))
  | initialised {q : List HostRequest} (hempty : s.status = .empty) (hqueue : s.hostQueue = .initMachine :: q) :
      StepEffect s (State.initialised { s with hostQueue := q })
  | hostWrite {a v : Word} {q : List HostRequest} (hidle : s.status ≠ .running)
      (hqueue : s.hostQueue = .hostWrite a v :: q) (halloc : s.allocated a = true) :
      StepEffect s (State.setCell { s with hostQueue := q } a v)

/-- No enabled breakpoint at `ip`, as `runsProcessor` words it. -/
theorem off_breakpoint_of_not_atBreakpoint {s : State} (h : s.atBreakpoint = false) :
    s.bpEnabled = false ∨ s.ip ∉ s.bpSet := by
  by_contra hat
  rw [not_or, Bool.not_eq_false, not_not] at hat
  rw [(atBreakpoint_iff s).mpr hat] at h
  cases h

/-- A guarded step with the requests `q` left: a stop by RunControl or a step of the Processor. -/
theorem stepEffect_of_guardedStep {s u : State} {q : List HostRequest} (hqueue : q <:+ s.hostQueue)
    (hcommand : s.status = .running ∨
      ((s.status = .paused ∨ s.status = .notStarted) ∧ s.hostQueue.head? = some .stepOver))
    (h : guardedStep { s with hostQueue := q } = .next u) :
    StepEffect s (u.setStatus (statusAfter s.status u.status)) := by
  obtain ⟨_, hstop⟩ | ⟨hoff, hproc⟩ := guardedStep_cases { s with hostQueue := q }
  · obtain rfl := Host.Outcome.next.inj (hstop.symm.trans h)
    have hpaused : statusAfter s.status .paused = .paused := by cases s.status <;> rfl
    refine .control rfl hqueue id ?_
    change ControlStatus s (statusAfter s.status .paused)
    rw [hpaused]
    obtain hrun | ⟨hstatus, hhead⟩ := hcommand
    · exact .stopped hrun
    · exact .stoppedStepOver hstatus hhead
  · exact .processor ⟨off_breakpoint_of_not_atBreakpoint hoff, hcommand⟩ hqueue (hproc.symm.trans h)

/-- Everything a request of the host can do: `step_over` by its guarded step, the start and the host's write where they
act, every other one by RunControl or a port alone. -/
theorem stepEffect_of_hostRequest {s t : State} {r : HostRequest} {q : List HostRequest} (hidle : s.status ≠ .running)
    (hqueue : s.hostQueue = r :: q) (h : hostRequest r { s with hostQueue := q } = .next t) : StepEffect s t := by
  have htail : q <:+ s.hostQueue := hqueue ▸ List.suffix_cons r q
  cases r with
  | initMachine =>
    cases h
    by_cases hempty : s.status = .empty
    · exact .initialised hempty hqueue
    · rw [initialised_of_ne_empty (s := { s with hostQueue := q }) hempty]
      exact .control rfl htail id .same
  | setBreakpoint a => cases h; exact .control rfl htail (bpSorted_insert a s.bpSet) .same
  | removeBreakpoint a => cases h; exact .control rfl htail (bpSorted_remove a s.bpSet) .same
  | enableBreakpoints | disableBreakpoints => cases h; exact .control rfl htail id .same
  | continueRun =>
    cases h
    by_cases hstart : s.status = .notStarted ∨ s.status = .paused
    · rw [continued_notStarted_or_paused (s := { s with hostQueue := q }) hstart]
      exact .control rfl htail id (.continued hstart (by rw [hqueue]; rfl))
    · have hother : s.status = .empty ∨ s.status = .halted := by
        cases hstatus : s.status <;> simp [hstatus] at hstart hidle ⊢
      rw [continued_empty_or_halted (s := { s with hostQueue := q }) hother]
      exact .control rfl htail id .same
  | stepOver =>
    have hhead : s.hostQueue.head? = some .stepOver := by rw [hqueue]; rfl
    obtain ⟨hpaused, hguarded⟩ | ⟨hnotStarted, u, hguarded, rfl⟩ | ⟨_, _, rfl⟩ := stepOverCommand_cases _ t h
    · have heffect := stepEffect_of_guardedStep htail (.inr ⟨.inl hpaused, hhead⟩) hguarded
      rwa [show s.status = .paused from hpaused] at heffect
    · have heffect := stepEffect_of_guardedStep htail (.inr ⟨.inr hnotStarted, hhead⟩) hguarded
      rwa [show s.status = .notStarted from hnotStarted] at heffect
    · exact .control rfl htail id .same
  | hostWrite a v =>
    cases h
    cases halloc : s.allocated a with
    | true =>
      rw [hostWritten_allocated (s := { s with hostQueue := q }) halloc]
      exact .hostWrite hidle hqueue halloc
    | false =>
      rw [hostWritten_unallocated (s := { s with hostQueue := q }) halloc]
      exact .control rfl htail id .same
  | getInstructionPointer | getStatus | getRegionSize | getFault | hostRead a =>
    cases h; exact .control rfl htail id .same

/-- Everything a step of the machine can do, where it leaves a next state. -/
theorem stepEffect_of_next {s t : State} (h : step s = .next t) : StepEffect s t := by
  obtain ⟨hrun, hstep⟩ | ⟨_, _, hstep⟩ | ⟨hidle, r, q, hqueue, hstep⟩ := step_cases s
  · have heffect := stepEffect_of_guardedStep (q := s.hostQueue) List.suffix_rfl (.inl hrun) (hstep.symm.trans h)
    rwa [hrun] at heffect
  · obtain rfl := Host.Outcome.next.inj (hstep.symm.trans h)
    exact .control rfl List.suffix_rfl id .same
  · exact stepEffect_of_hostRequest hidle hqueue (hstep.symm.trans h)

end Sys2Proof.Machine
end

section
/-! The claims over every step of the machine, from the kinds of effect a step has. -/
namespace Sys2Proof.Machine

/-! ### Reads of two states with the same program view -/

/-- What a program computes with includes every cell it reads. -/
theorem memRead_of_programView {s t : State} (h : t.programView = s.programView) (a : Word) :
    t.memRead a = s.memRead a :=
  memRead_congr s t a (congrArg State.mem h :) (congrArg State.regionCount h :)

/-- The Processor runs in no `Empty` and in no `Halted` state. -/
theorem State.runsProcessor.status_ne {s : State} (h : s.runsProcessor) : s.status ≠ .empty ∧ s.status ≠ .halted := by
  obtain ⟨_, hstatus | ⟨hstatus | hstatus, _⟩⟩ := h <;> rw [hstatus] <;> decide

/-! ### The cells -/

/-- Settles O11: the Processor's step changes a read by a store alone, RunControl changes none, the start happens where
every address reads as 0, and the host's write is the remaining kind. -/
theorem cellsChangeOnlyByStoresAndHostWrites : Obligations.CellsChangeOnlyByStoresAndHostWrites := by
  intro s t a hinv hstep hchanged
  cases stepEffect_of_next hstep with
  | control hview => exact absurd (memRead_of_programView hview a) hchanged
  | @processor q u hruns _ hproc =>
    obtain hsame | ⟨halloc, hread, hstore⟩ := processorStep_memRead hproc a
    · exact absurd hsame hchanged
    · exact ⟨halloc, .inl ⟨hruns, hread, hstore⟩⟩
  | @initialised q hempty =>
    obtain ⟨_, _, _, _, hnoRegion⟩ := hinv
    have hunalloc : s.allocated a = false :=
      decide_eq_false (by rw [hnoRegion.mp hempty]; exact Nat.not_lt_zero _)
    have hread := memRead_initialised (s := { s with hostQueue := q }) hempty a
    exact absurd (hread.trans (memRead_unallocated s a hunalloc).symm) hchanged
  | @hostWrite b v q hidle hqueue halloc =>
    have hread := memRead_setCell { s with hostQueue := q } b a v halloc
    by_cases ha : a = b
    · subst ha
      exact ⟨halloc, .inr ⟨hidle, v, q, hqueue, hread.trans (if_pos rfl)⟩⟩
    · exact absurd (hread.trans (if_neg ha)) hchanged

/-! ### The invariant -/

theorem State.Inv.memoryInv {s : State} (h : s.Inv) : s.MemoryInv := by
  obtain ⟨hwf, hcells, hle, _, _⟩ := h
  exact ⟨hwf, hcells, hle⟩

/-- The invariant from its parts. -/
theorem State.MemoryInv.inv {s : State} (h : s.MemoryInv) (hsorted : bpSorted s.bpSet = true)
    (hstatus : s.status = .empty ↔ s.regionCount = 0) : s.Inv :=
  ⟨h.wf, h.cellsAllocated, h.regionCount_le, hsorted, hstatus⟩

/-- RunControl neither enters nor leaves `Empty`. -/
theorem ControlStatus.empty_iff {s : State} {st : Status} (h : ControlStatus s st) :
    st = .empty ↔ s.status = .empty := by
  cases h with
  | same => exact Iff.rfl
  | continued hstatus => obtain h | h := hstatus <;> simp [h]
  | stopped hrun => simp [hrun]
  | stoppedStepOver hstatus => obtain h | h := hstatus <;> simp [h]

/-- A step of the Processor leaves no `Empty` state, whatever `step_over` makes of its status. -/
theorem statusAfter_ne_empty {s u : State} {q : List HostRequest} (hruns : s.runsProcessor)
    (h : processorStep { s with hostQueue := q } = .next u) : statusAfter s.status u.status ≠ .empty := by
  have hne : u.status ≠ .empty := by
    obtain hst | hst | hst := processorStep_status h <;> rw [hst]
    · exact hruns.status_ne.1
    · decide
    · decide
  cases s.status with
  | notStarted => exact Status.noConfusion
  | _ => exact hne

/-- Settles O57: each kind of effect keeps each part of the invariant. -/
theorem stepKeepsTheInvariant : Obligations.StepKeepsTheInvariant := by
  intro s t hinv hstep
  have hmemory := hinv.memoryInv
  obtain ⟨_, _, _, hsorted, hempty_iff⟩ := hinv
  cases stepEffect_of_next hstep with
  | control hview _ hsorts hstatus =>
    have hcount : t.regionCount = s.regionCount := (congrArg State.regionCount hview :)
    have hmemory' : t.MemoryInv := hmemory.congr (congrArg State.mem hview :) hcount
    exact hmemory'.inv (hsorts hsorted) (hcount ▸ hstatus.empty_iff.trans hempty_iff)
  | @processor q u hruns _ hproc =>
    have hmemory' := processorStep_memoryInv (s := { s with hostQueue := q }) (hmemory.congr rfl rfl) hproc
    have hbp := processorStep_bpSet hproc
    have hregions : u.regionCount ≠ 0 := by
      have hne : s.regionCount ≠ 0 := fun h => hruns.status_ne.1 (hempty_iff.mpr h)
      obtain hcount | ⟨hcount, _⟩ := processorStep_regionCount hproc <;> rw [hcount]
      · exact hne
      · exact Nat.succ_ne_zero _
    have hmemoryAfter : (u.setStatus (statusAfter s.status u.status)).MemoryInv := hmemory'.congr rfl rfl
    exact hmemoryAfter.inv (hbp ▸ hsorted) (iff_of_false (statusAfter_ne_empty hruns hproc) hregions)
  | @initialised q hempty =>
    refine State.MemoryInv.inv (.initialised (hmemory.congr rfl rfl) hempty (hempty_iff.mp hempty)) ?_ ?_ <;>
      rw [initialised_empty (s := { s with hostQueue := q }) hempty]
    · exact hsorted
    · exact iff_of_false Status.noConfusion Nat.one_ne_zero
  | @hostWrite a v q _ _ halloc =>
    have hmemory' : State.MemoryInv { s with hostQueue := q } := hmemory.congr rfl rfl
    exact (hmemory'.setCell halloc v).inv hsorted hempty_iff

/-! ### Regions and status -/

/-- Settles O54: only the start and a GROW create a region, one each. -/
theorem regionsOnlyGrow : Obligations.RegionsOnlyGrow := by
  intro s t hinv hstep
  obtain ⟨_, _, _, _, hempty_iff⟩ := hinv
  cases stepEffect_of_next hstep with
  | control hview => exact .inl (congrArg State.regionCount hview :)
  | processor hruns _ hproc =>
    exact (processorStep_regionCount hproc).imp_right fun ⟨hcount, hgrow⟩ => ⟨hcount, .inr ⟨hruns, hgrow⟩⟩
  | @initialised q hempty hqueue =>
    refine .inr ⟨?_, .inl ⟨hempty, by rw [hqueue]; rfl⟩⟩
    rw [initialised_empty (s := { s with hostQueue := q }) hempty, hempty_iff.mp hempty]
  | hostWrite => exact .inl rfl

/-- The rows of R39's transition table that leave `s.status`, for a step after which the status is `st`. -/
def TransitionRow (s : State) (st : Status) : Prop :=
  (s.status = .empty ∧ st = .notStarted ∧ s.hostQueue.head? = some .initMachine) ∨
  (s.status = .notStarted ∧ st = .running ∧ s.hostQueue.head? = some .continueRun) ∨
  (s.status = .notStarted ∧ st = .paused ∧ s.hostQueue.head? = some .stepOver) ∨
  (s.status = .running ∧ (st = .paused ∨ st = .halted)) ∨
  (s.status = .paused ∧ st = .running ∧ s.hostQueue.head? = some .continueRun) ∨
  (s.status = .paused ∧ st = .halted ∧ s.hostQueue.head? = some .stepOver)

/-- RunControl's own changes of `status` are rows of the table. -/
theorem ControlStatus.transitionRow {s : State} {st : Status} (h : ControlStatus s st) (hne : st ≠ s.status) :
    TransitionRow s st := by
  cases h with
  | same => exact absurd rfl hne
  | continued hstatus hqueue => obtain h | h := hstatus <;> simp [TransitionRow, h, hqueue]
  | stopped hrun => simp [TransitionRow, hrun]
  | stoppedStepOver hstatus hqueue =>
    obtain h | h := hstatus
    · exact absurd h.symm hne
    · simp [TransitionRow, h, hqueue]

/-- So are those of a step of the Processor, by the command that runs it. -/
theorem statusAfter_transitionRow {s : State} {st : Status} (hruns : s.runsProcessor)
    (hst : st = s.status ∨ st = .paused ∨ st = .halted) (hne : statusAfter s.status st ≠ s.status) :
    TransitionRow s (statusAfter s.status st) := by
  obtain ⟨_, hrun | ⟨hpaused | hnotStarted, hhead⟩⟩ := hruns
  · rw [hrun] at hne hst ⊢
    obtain rfl | rfl | rfl := hst
    · exact absurd rfl hne
    · simp [TransitionRow, hrun, statusAfter]
    · simp [TransitionRow, hrun, statusAfter]
  · rw [hpaused] at hne hst ⊢
    obtain rfl | rfl | rfl := hst
    · exact absurd rfl hne
    · exact absurd rfl hne
    · simp [TransitionRow, hpaused, hhead, statusAfter]
  · simp [TransitionRow, hnotStarted, hhead, statusAfter]

/-- Settles O53: RunControl's transitions, those of a step of the Processor, and the start. -/
theorem statusTransitionTable : Obligations.StatusTransitionTable := by
  intro s t hstep hchanged
  cases stepEffect_of_next hstep with
  | control _ _ _ hstatus => exact hstatus.transitionRow hchanged
  | processor hruns _ hproc =>
    have hst := processorStep_status hproc
    exact statusAfter_transitionRow hruns hst hchanged
  | @initialised q hempty hqueue =>
    refine .inl ⟨hempty, ?_, by rw [hqueue]; rfl⟩
    rw [initialised_empty (s := { s with hostQueue := q }) hempty]
  | hostWrite => exact absurd rfl hchanged

/-- From `Halted` every step leaves a next state: no command runs the Processor. -/
theorem exists_step_of_halted {s : State} (h : s.status = .halted) : ∃ t, step s = .next t := by
  obtain ⟨hrun, _⟩ | ⟨_, _, hstep⟩ | ⟨_, r, q, _, hstep⟩ := step_cases s
  · rw [h] at hrun; cases hrun
  · exact ⟨s, hstep⟩
  · cases r with
    | stepOver => exact ⟨_, hstep.trans (stepOverCommand_empty_or_halted (s := { s with hostQueue := q }) (.inr h))⟩
    | _ => exact ⟨_, hstep⟩

/-- RunControl does not leave `Halted`. -/
theorem ControlStatus.eq_halted {s : State} {st : Status} (h : ControlStatus s st) (hhalted : s.status = .halted) :
    st = .halted := by
  cases h with
  | same => exact hhalted
  | continued hstatus => obtain h | h := hstatus <;> rw [hhalted] at h <;> cases h
  | stopped hrun => rw [hhalted] at hrun; cases hrun
  | stoppedStepOver hstatus => obtain h | h := hstatus <;> rw [hhalted] at h <;> cases h

/-- Settles O52: in `Halted` a step is RunControl's, which keeps the program's view, or a host write of one cell. -/
theorem haltedIsTerminal : Obligations.HaltedIsTerminal := by
  intro s hhalted
  obtain ⟨t, hstep⟩ := exists_step_of_halted hhalted
  refine ⟨t, hstep, ?_⟩
  cases stepEffect_of_next hstep with
  | control hview _ _ hstatus =>
    have hread (a : Word) := memRead_of_programView hview a
    obtain ⟨hbus, hip, _, hfault, hfaultIp, hfaultInfo, hmode, hA, hB, hhi, hlo, hcmp, hcount, _, _, _, _, hturns,
      hcalls, _⟩ := State.mk.inj hview
    exact ⟨hstatus.eq_halted hhalted, hip, hbus, hmode, hA, hB, hhi, hlo, hcmp, hcount, hfault, hfaultIp, hfaultInfo,
      hcalls, hturns, fun a => .inl (hread a)⟩
  | processor hruns => exact absurd hhalted hruns.status_ne.2
  | initialised hempty => rw [hhalted] at hempty; cases hempty
  | @hostWrite b v q hidle hqueue halloc =>
    refine ⟨hhalted, rfl, rfl, rfl, rfl, rfl, rfl, rfl, rfl, rfl, rfl, rfl, rfl, rfl, rfl, fun a => ?_⟩
    have hread := memRead_setCell { s with hostQueue := q } b a v halloc
    by_cases ha : a = b
    · subst ha
      exact .inr ⟨v, by rw [hqueue]; rfl, hread.trans (if_pos rfl)⟩
    · exact .inl (hread.trans (if_neg ha))

/-! ### The fault registers -/

/-- Settles O39: only a step of the Processor that raises a fault writes the fault registers, and it writes a cause. -/
theorem faultRegistersNeverCleared : Obligations.FaultRegistersNeverCleared := by
  intro s t hstep
  cases stepEffect_of_next hstep with
  | control hview =>
    have hfault : t.fault = s.fault := (congrArg State.fault hview :)
    have hfaultIp : t.faultIp = s.faultIp := (congrArg State.faultIp hview :)
    have hfaultInfo : t.faultInfo = s.faultInfo := (congrArg State.faultInfo hview :)
    simp [hfault, hfaultIp, hfaultInfo]
  | processor hruns _ hproc =>
    obtain ⟨hfault, hfaultIp, hfaultInfo⟩ | ⟨c, info, hc, rfl⟩ := processorStep_fault hproc
    · simp [hfault, hfaultIp, hfaultInfo]
    · exact ⟨fun _ => hc, fun _ => ⟨rfl, rfl, hruns⟩⟩
  | @initialised q hempty =>
    rw [initialised_empty (s := { s with hostQueue := q }) hempty]
    simp
  | hostWrite => simp

end Sys2Proof.Machine
end

section
/-! Runs: what a program computes with under RunControl (60_exceptions.md section 4), and how programs end
(45_run_control.md section 6). -/
namespace Sys2Proof.Machine

/-! ### The Processor sees the program view alone -/

/-- Taking a request changes nothing a program computes with. -/
theorem programView_taken (s : State) (q : List HostRequest) :
    State.programView { s with hostQueue := q } = s.programView := rfl

/-- An outcome with only the program view of its next state. -/
def viewOutcome : Host.Outcome State Fault Refusal → Host.Outcome State Fault Refusal
  | .next t => .next t.programView
  | .fault e => .fault e
  | .refused r => .refused r

theorem viewOutcome_eq_next {o : Host.Outcome State Fault Refusal} {w : State} (h : viewOutcome o = .next w) :
    ∃ v, o = .next v ∧ v.programView = w := by
  cases o with
  | next v => exact ⟨v, rfl, Host.Outcome.next.inj h⟩
  | fault e => cases h
  | refused r => cases h

theorem programView_store (s : State) (a v : Word) :
    (s.store a v).programView = (s.programView.store a v).programView := by
  have hsame : s.programView.allocated a = s.allocated a := rfl
  simp only [State.store, hsame]
  split <;> rfl

theorem programView_condJump (s : State) (wanted : CmpResult) (off : Word) :
    (s.condJump (· == wanted) off).programView = (s.programView.condJump (· == wanted) off).programView := by
  rw [condJump_eq, condJump_eq]; rfl

/-- No instruction's effect on the program view depends on what the view leaves out. -/
theorem viewOutcome_exec (i : Instr) (s : State) : viewOutcome (exec i s) = viewOutcome (exec i s.programView) := by
  cases i with
  | strp off | str off | sta addr => exact congrArg Host.Outcome.next (programView_store s _ s.bus)
  | jgt off | jlt off | jeq off => exact congrArg Host.Outcome.next (programView_condJump s _ off)
  | div =>
    cases hmode : s.mode with
    | int =>
      by_cases hB : s.latchB = 0
      · rw [exec_div_zero hmode hB, exec_div_zero (s := s.programView) hmode hB]; rfl
      · rw [exec_div_int hmode hB, exec_div_int (s := s.programView) hmode hB]; rfl
    | float => rw [exec_div_float hmode, exec_div_float (s := s.programView) hmode]; rfl
  | grow =>
    obtain hlt | hfull := Nat.lt_or_ge s.regionCount Config.maxRegions
    · rw [exec_grow_below hlt, exec_grow_below (s := s.programView) hlt]; rfl
    · rw [exec_grow_full hfull, exec_grow_full (s := s.programView) hfull]; rfl
  | sys arg =>
    cases hanswered : s.syscallTurn.answered with
    | true => rw [exec_sys_answered hanswered, exec_sys_answered (s := s.programView) hanswered]; rfl
    | false => rw [exec_sys_unanswered hanswered, exec_sys_unanswered (s := s.programView) hanswered]
  | _ => rfl

theorem viewOutcome_processorStep (s : State) :
    viewOutcome (processorStep s) = viewOutcome (processorStep s.programView) := by
  have hsame : s.programView.fetchWords = s.fetchWords := rfl
  simp only [processorStep, hsame]
  cases decode s.fetchWords with
  | ok i _ => exact viewOutcome_exec i s
  | error _ => rfl

/-- From states that agree in the program view the Processor's steps agree in it. -/
theorem processorStep_of_programView_eq {s t u : State} (hview : s.programView = t.programView)
    (h : processorStep s = .next u) : ∃ v, processorStep t = .next v ∧ v.programView = u.programView := by
  refine viewOutcome_eq_next ?_
  calc viewOutcome (processorStep t)
      _ = viewOutcome (processorStep s.programView) := by rw [viewOutcome_processorStep t, hview]
      _ = viewOutcome (processorStep s) := (viewOutcome_processorStep s).symm
      _ = .next u.programView := congrArg viewOutcome h

/-- So do its runs. -/
theorem processorRun_of_programView_eq {n : Nat} {s t u : State} (hview : s.programView = t.programView)
    (h : processorRun n s = .next u) : ∃ v, processorRun n t = .next v ∧ v.programView = u.programView := by
  induction n generalizing s t with
  | zero => obtain rfl := Host.Outcome.next.inj h; exact ⟨t, rfl, hview.symm⟩
  | succ n ih =>
    obtain ⟨s', hs, hrun⟩ := (runSteps_succ_next processorStep n s u).mp h
    obtain ⟨t', ht, hview'⟩ := processorStep_of_programView_eq hview hs
    obtain ⟨v, hv, hviewv⟩ := ih hview'.symm hrun
    exact ⟨v, (runSteps_succ_next processorStep n t v).mpr ⟨t', ht, hv⟩, hviewv⟩

/-- Settles O59: RunControl keeps the view, and the Processor's step does not see that a request was taken. -/
theorem eachStepIsTheProgramsOrAHostsWrite : Obligations.EachStepIsTheProgramsOrAHostsWrite := by
  intro s t hstep
  cases stepEffect_of_next hstep with
  | control hview => exact .inl hview
  | processor hruns _ hproc =>
    obtain ⟨v, hv, hview⟩ := processorStep_of_programView_eq (programView_taken s _) hproc
    exact .inr (.inl ⟨hruns, v, hv, hview.symm⟩)
  | initialised hempty hqueue => exact .inr (.inr (.inl ⟨hempty, by rw [hqueue]; rfl⟩))
  | hostWrite hidle hqueue halloc => exact .inr (.inr (.inr ⟨hidle, _, _, by rw [hqueue]; rfl, halloc⟩))

/-! ### Runs of the machine without a host's write -/

/-- No request waits that would change what a program computes with. -/
def State.NoHostChange (s : State) : Prop :=
  (s.status = .empty → HostRequest.initMachine ∉ s.hostQueue) ∧ ∀ a v, HostRequest.hostWrite a v ∉ s.hostQueue

/-- A step takes requests from the head of the queue and adds none. -/
theorem step_hostQueue_suffix {s t : State} (hstep : step s = .next t) : t.hostQueue <:+ s.hostQueue := by
  cases stepEffect_of_next hstep with
  | control _ hqueue => exact hqueue
  | processor _ hqueue hproc =>
    have hkept := processorStep_hostQueue hproc
    exact hkept ▸ hqueue
  | @initialised q hempty hqueue =>
    rw [initialised_empty (s := { s with hostQueue := q }) hempty, hqueue]
    exact List.suffix_cons _ q
  | @hostWrite a v q _ hqueue => rw [hqueue]; exact List.suffix_cons _ q

/-- No step enters `Empty` (R39). -/
theorem step_status_empty {s t : State} (hstep : step s = .next t) (h : t.status = .empty) : s.status = .empty := by
  by_contra hne
  have hrow := statusTransitionTable s t hstep (fun heq => hne (heq ▸ h))
  rw [h] at hrow
  simp at hrow

theorem State.NoHostChange.step {s t : State} (h : s.NoHostChange) (hstep : Sys2Proof.Machine.step s = .next t) :
    t.NoHostChange := by
  obtain ⟨hstart, hwrite⟩ := h
  have hsub := (step_hostQueue_suffix hstep).subset
  exact ⟨fun hempty hmem => hstart (step_status_empty hstep hempty) (hsub hmem), fun a v hmem => hwrite a v (hsub hmem)⟩

/-- Without a host's change a step is, to the program, nothing or one step of the Processor. -/
theorem step_programView {s t : State} (h : s.NoHostChange) (hstep : step s = .next t) :
    t.programView = s.programView ∨ ∃ u, processorStep s = .next u ∧ t.programView = u.programView := by
  obtain ⟨hstart, hwrite⟩ := h
  obtain hview | ⟨_, hproc⟩ | ⟨hempty, hhead⟩ | ⟨_, a, v, hhead, _⟩ := eachStepIsTheProgramsOrAHostsWrite s t hstep
  · exact .inl hview
  · exact .inr hproc
  · exact absurd (List.mem_of_mem_head? hhead) (hstart hempty)
  · exact absurd (List.mem_of_mem_head? hhead) (hwrite a v)

/-- A run of the machine reaches, to the program, what some run of the Processor alone reaches in no more steps. -/
theorem exists_processorRun_of_machineRun {n : Nat} {s t : State} (h : s.NoHostChange) (hrun : machineRun n s = .next t) :
    ∃ k u, k ≤ n ∧ processorRun k s = .next u ∧ t.programView = u.programView := by
  induction n generalizing s with
  | zero => obtain rfl := Host.Outcome.next.inj hrun; exact ⟨0, s, le_rfl, rfl, rfl⟩
  | succ n ih =>
    obtain ⟨s', hstep, hrest⟩ := (runSteps_succ_next step n s t).mp hrun
    obtain ⟨k, u, hk, hu, hview⟩ := ih (h.step hstep) hrest
    obtain hsame | ⟨p, hp, hsame⟩ := step_programView h hstep
    · obtain ⟨v, hv, hviewv⟩ := processorRun_of_programView_eq hsame hu
      exact ⟨k, v, Nat.le_succ_of_le hk, hv, hview.trans hviewv.symm⟩
    · obtain ⟨v, hv, hviewv⟩ := processorRun_of_programView_eq hsame hu
      exact ⟨k + 1, v, Nat.succ_le_succ hk, (runSteps_succ_next processorStep k s v).mpr ⟨p, hp, hv⟩,
        hview.trans hviewv.symm⟩

/-- Settles O56: the Processor's runs see the program view alone, and each step of the machine is at most one of them. -/
theorem runControlDoesNotChangeTheProgram : Obligations.RunControlDoesNotChangeTheProgram :=
  ⟨fun _ _ _ _ => processorRun_of_programView_eq,
    fun _ _ _ hstart hwrite => exists_processorRun_of_machineRun ⟨hstart, hwrite⟩⟩

/-! ### Recording a fault -/

/-- Where the machine's next step runs the Processor, it leaves the program view that the Processor's step leaves. -/
theorem step_of_runsProcessor {s u : State} (hruns : s.runsProcessor) (h : processorStep s = .next u) :
    ∃ t, step s = .next t ∧ t.programView = u.programView := by
  obtain ⟨hoff, hrun | ⟨hstatus, hhead⟩⟩ := hruns
  · exact ⟨u, (step_of_running hrun).trans ((guardedStep_off_breakpoint hoff).trans h), rfl⟩
  · obtain ⟨q, hqueue⟩ := List.head?_eq_some_iff.mp hhead
    obtain ⟨v, hv, hview⟩ := processorStep_of_programView_eq (programView_taken s q).symm h
    have hguarded := (guardedStep_off_breakpoint (s := { s with hostQueue := q }) hoff).trans hv
    obtain hpaused | hnotStarted := hstatus
    · exact ⟨v, (step_stepOver_paused hpaused hqueue).trans hguarded, hview⟩
    · exact ⟨v.setStatus .paused, (step_of_request (by simp [hnotStarted]) hqueue).trans
        (stepOverCommand_notStarted_of_next (s := { s with hostQueue := q }) hnotStarted hguarded), hview⟩

/-- A step that records a fault leaves one recorded. -/
theorem fault_ne_none_of_recordsFault {s t : State} (h : s.recordsFault = true) (hstep : step s = .next t) :
    t.fault ≠ .none := by
  obtain ⟨hruns, u, hproc, hfault, _⟩ := (recordsFault_iff s).mp h
  obtain ⟨t', hstep', hview⟩ := step_of_runsProcessor hruns hproc
  obtain rfl := Host.Outcome.next.inj (hstep.symm.trans hstep')
  exact (congrArg State.fault hview :) ▸ hfault

/-- The two states have the same fault registers. -/
def SameFault (s t : State) : Prop := t.fault = s.fault ∧ t.faultIp = s.faultIp ∧ t.faultInfo = s.faultInfo

/-- The fault registers are part of the program view. -/
theorem sameFault_of_programView {s t : State} (h : t.programView = s.programView) : SameFault s t :=
  ⟨(congrArg State.fault h :), (congrArg State.faultIp h :), (congrArg State.faultInfo h :)⟩

theorem SameFault.trans {s t u : State} (hst : SameFault s t) (htu : SameFault t u) : SameFault s u := by
  obtain ⟨hfault, hfaultIp, hfaultInfo⟩ := hst
  obtain ⟨hfault', hfaultIp', hfaultInfo'⟩ := htu
  exact ⟨hfault'.trans hfault, hfaultIp'.trans hfaultIp, hfaultInfo'.trans hfaultInfo⟩

/-- A step that records no fault keeps the fault registers. -/
theorem sameFault_of_not_recordsFault {s t : State} (h : s.recordsFault = false) (hstep : step s = .next t) :
    SameFault s t := by
  cases stepEffect_of_next hstep with
  | control hview => exact sameFault_of_programView hview
  | processor hruns _ hproc =>
    obtain ⟨v, hv, hview⟩ := processorStep_of_programView_eq (programView_taken s _) hproc
    obtain hsame | ⟨c, info, hc, rfl⟩ := processorStep_fault hv
    · exact SameFault.trans hsame (sameFault_of_programView hview.symm)
    · rw [(recordsFault_iff s).mpr ⟨hruns, _, hv, hc, rfl⟩] at h
      cases h
  | @initialised q hempty =>
    rw [initialised_empty (s := { s with hostQueue := q }) hempty]
    exact ⟨rfl, rfl, rfl⟩
  | hostWrite => exact ⟨rfl, rfl, rfl⟩

/-! ### Recording a fault within a run -/

theorem recordsFaultWithin_succ {s t : State} (hstep : step s = .next t) (n : Nat) :
    s.recordsFaultWithin (n + 1) = (s.recordsFault || t.recordsFaultWithin n) := by
  simp only [State.recordsFaultWithin, hstep]

/-- A run that records no fault keeps the fault registers. -/
theorem sameFault_of_run {n : Nat} {s t : State} (h : s.recordsFaultWithin n = false)
    (hrun : machineRun n s = .next t) : SameFault s t := by
  induction n generalizing s with
  | zero => obtain rfl := Host.Outcome.next.inj hrun; exact ⟨rfl, rfl, rfl⟩
  | succ n ih =>
    obtain ⟨s', hstep, hrest⟩ := (runSteps_succ_next step n s t).mp hrun
    obtain ⟨hfirst, hlater⟩ := Bool.or_eq_false_iff.mp ((recordsFaultWithin_succ hstep n).symm.trans h)
    exact (sameFault_of_not_recordsFault hfirst hstep).trans (ih hlater hrest)

/-- No run clears a recorded fault (R40). -/
theorem fault_ne_none_of_run {n : Nat} {s t : State} (h : s.fault ≠ .none) (hrun : machineRun n s = .next t) :
    t.fault ≠ .none := by
  induction n generalizing s with
  | zero => obtain rfl := Host.Outcome.next.inj hrun; exact h
  | succ n ih =>
    obtain ⟨s', hstep, hrest⟩ := (runSteps_succ_next step n s t).mp hrun
    obtain ⟨hkept, _⟩ := faultRegistersNeverCleared s s' hstep
    exact ih (hkept h) hrest

/-- A run that records a fault ends with one recorded. -/
theorem fault_ne_none_of_recordsFaultWithin {n : Nat} {s t : State} (h : s.recordsFaultWithin n = true)
    (hrun : machineRun n s = .next t) : t.fault ≠ .none := by
  induction n generalizing s with
  | zero => cases h
  | succ n ih =>
    obtain ⟨s', hstep, hrest⟩ := (runSteps_succ_next step n s t).mp hrun
    obtain hfirst | hlater := Bool.or_eq_true_iff.mp ((recordsFaultWithin_succ hstep n).symm.trans h)
    · exact fault_ne_none_of_run (fault_ne_none_of_recordsFault hfirst hstep) hrest
    · exact ih hlater hrest

/-- From a `Halted` state no fault is recorded any more. -/
theorem recordsFaultWithin_of_halted {s : State} (h : s.status = .halted) (n : Nat) :
    s.recordsFaultWithin n = false := by
  induction n generalizing s with
  | zero => rfl
  | succ n ih =>
    obtain ⟨t, hstep, hhalted, _⟩ := haltedIsTerminal s h
    rw [recordsFaultWithin_succ hstep, recordsFault_halted s h, ih hhalted]; rfl

/-- Two runs from one state that both end `Halted` agree on whether a fault was recorded. -/
theorem recordsFaultWithin_unique {n m : Nat} {s t u : State} (hn : machineRun n s = .next t)
    (ht : t.status = .halted) (hm : machineRun m s = .next u) (hu : u.status = .halted) :
    s.recordsFaultWithin n = s.recordsFaultWithin m := by
  induction n generalizing s m with
  | zero =>
    obtain rfl := Host.Outcome.next.inj hn
    rw [recordsFaultWithin_of_halted ht, recordsFaultWithin_of_halted ht]
  | succ n ih =>
    cases m with
    | zero =>
      obtain rfl := Host.Outcome.next.inj hm
      rw [recordsFaultWithin_of_halted hu, recordsFaultWithin_of_halted hu]
    | succ m =>
      obtain ⟨s', hstep, hn'⟩ := (runSteps_succ_next step n s t).mp hn
      obtain ⟨s'', hstep', hm'⟩ := (runSteps_succ_next step m s u).mp hm
      obtain rfl := Host.Outcome.next.inj (hstep.symm.trans hstep')
      rw [recordsFaultWithin_succ hstep, recordsFaultWithin_succ hstep, ih hn' hm']

/-! ### How programs end -/

theorem State.finished.sameFault {start t : State} (h : start.finished t) : SameFault start t := by
  obtain ⟨_, _, _, hrun, hnone⟩ := h
  exact sameFault_of_run hnone hrun

theorem State.failed.fault_ne_none {start t : State} (h : start.failed t) : t.fault ≠ .none := by
  obtain ⟨_, _, _, hrun, hsome⟩ := h
  exact fault_ne_none_of_recordsFaultWithin hsome hrun

theorem not_finished_and_failed {start t : State} : ¬ (start.finished t ∧ start.failed t) := by
  rintro ⟨⟨_, ht, n, hn, hnone⟩, ⟨_, _, m, hm, hsome⟩⟩
  rw [recordsFaultWithin_unique hn ht hm ht, hsome] at hnone
  cases hnone

/-- A run that ends `Halted` has finished or failed, by whether a fault was recorded in it. -/
theorem finished_or_failed {n : Nat} {start t : State} (hstart : start.status ≠ .halted)
    (hrun : machineRun n start = .next t) (ht : t.status = .halted) : start.finished t ∨ start.failed t := by
  cases hrecords : start.recordsFaultWithin n with
  | false => exact .inl ⟨hstart, ht, n, hrun, hrecords⟩
  | true => exact .inr ⟨hstart, ht, n, hrun, hrecords⟩

theorem machineRun_one {s t : State} (h : step s = .next t) : machineRun 1 s = .next t :=
  (runSteps_succ_next step 0 s t).mpr ⟨t, h, rfl⟩

theorem recordsFaultWithin_one {s t : State} (h : step s = .next t) : s.recordsFaultWithin 1 = s.recordsFault :=
  (recordsFaultWithin_succ h 0).trans (Bool.or_false _)

/-- A step of the Processor that moves `ip` records no fault: raising one leaves `ip` where it was (R128). -/
theorem not_recordsFault_of_ip_ne {s t : State} (h : processorStep s = .next t) (hip : t.ip ≠ s.ip) :
    s.recordsFault = false := by
  refine Bool.eq_false_iff.mpr fun hrecords => hip ?_
  obtain ⟨_, u, hu, _, hraise⟩ := (recordsFault_iff s).mp hrecords
  obtain rfl := Host.Outcome.next.inj (h.symm.trans hu)
  rw [hraise]; rfl

/-- Inside `continue_` `HALT` finishes the program, whatever the fault registers hold (R224, R264). -/
theorem finished_of_halt {s : State} (hrun : s.status = .running) (hoff : s.bpEnabled = false ∨ s.ip ∉ s.bpSet)
    (h : s.memRead s.ip = 16) : ∃ t, step s = .next t ∧ s.finished t := by
  have hdecode : decode [s.memRead s.ip, s.memRead (s.ip + 1)] = .ok .halt [s.memRead (s.ip + 1)] := by
    rw [h]; exact decode_encode .halt _
  have hproc := (processorStep_of_decode hdecode).trans (exec_halt s)
  have hstep := (step_of_running hrun).trans ((guardedStep_off_breakpoint hoff).trans hproc)
  have hmoves : ((s.setStatus .halted).advance 0).ip ≠ s.ip := by simp [setStatus_advance_zero]
  refine ⟨_, hstep, by simp [hrun], rfl, 1, machineRun_one hstep, ?_⟩
  rw [recordsFaultWithin_one hstep, not_recordsFault_of_ip_ne hproc hmoves]

/-- Inside `continue_` a word that is no opcode fails the program, even where its fault repeats an older one. -/
theorem failed_of_invalid {s : State} (hrun : s.status = .running) (hoff : s.bpEnabled = false ∨ s.ip ∉ s.bpSet)
    (h : 25 ≤ (s.memRead s.ip).toNat) : ∃ t, step s = .next t ∧ s.failed t := by
  have hproc := processorStep_of_invalid h
  have hstep := (step_of_running hrun).trans ((guardedStep_off_breakpoint hoff).trans hproc)
  refine ⟨_, hstep, by simp [hrun], rfl, 1, machineRun_one hstep, ?_⟩
  rw [recordsFaultWithin_one hstep]
  exact (recordsFault_iff s).mpr ⟨⟨hoff, .inl hrun⟩, _, hproc, FaultCause.noConfusion, rfl⟩

/-- Settles O60: whether a run that ends `Halted` has recorded a fault is one answer for all such runs from the start, and
it decides what the fault registers hold. -/
theorem programsFinishOrFail : Obligations.ProgramsFinishOrFail := by
  refine ⟨fun start t => ⟨State.finished.sameFault, State.failed.fault_ne_none, not_finished_and_failed⟩, ?ends,
    fun s hrun hoff => ⟨finished_of_halt hrun hoff, failed_of_invalid hrun hoff⟩⟩
  case ends =>
    intro n start t hstart hrun ht
    have hend := finished_or_failed hstart hrun ht
    refine ⟨hend, fun hnone => ⟨fun hfinished => ?_, fun hfault => ?_⟩⟩
    · obtain ⟨hsame, _⟩ := hfinished.sameFault
      exact hsame.trans hnone
    · exact hend.resolve_right fun hfailed => hfailed.fault_ne_none hfault

end Sys2Proof.Machine
end

section
/-! Floating-point formats: what the exponent and fraction bits of a pattern stand for, in a format of any width, and the
patterns of binary32 and binary64 as a sign with such bits (42_alu.md section 3). -/
namespace Sys2Proof.Machine

/-! ### Magnitudes -/

/-- The magnitude that the exponent and fraction bits `k` stand for, with `p` fraction bits and no upper limit on the
exponent, in units of the least subnormal. -/
def magOfBits (p k : Nat) : Nat :=
  if k / 2 ^ p = 0 then k % 2 ^ p else (2 ^ p + k % 2 ^ p) * 2 ^ (k / 2 ^ p - 1)

/-- Subnormal bits are their own magnitude. -/
theorem magOfBits_of_lt {p k : Nat} (h : k < 2 ^ p) : magOfBits p k = k := by
  rw [magOfBits, if_pos (Nat.div_eq_of_lt h), Nat.mod_eq_of_lt h]

/-- Normal bits, by their biased exponent `e + 1` and fraction `f`. -/
theorem magOfBits_normal {p e f : Nat} (h : f < 2 ^ p) :
    magOfBits p ((e + 1) * 2 ^ p + f) = (2 ^ p + f) * 2 ^ e := by
  have hpos : 0 < 2 ^ p := Nat.two_pow_pos p
  have hdiv : ((e + 1) * 2 ^ p + f) / 2 ^ p = e + 1 := by
    rw [mul_comm, Nat.mul_add_div hpos, Nat.div_eq_of_lt h, Nat.add_zero]
  have hmod : ((e + 1) * 2 ^ p + f) % 2 ^ p = f := by
    rw [mul_comm, Nat.mul_add_mod, Nat.mod_eq_of_lt h]
  rw [magOfBits, hdiv, hmod, if_neg (Nat.succ_ne_zero e), Nat.add_sub_cancel]

/-- A significand `m` at the quantum `2 ^ shift`: the bits are one sum, also where `m` has carried into the next binade. -/
theorem magOfBits_add {p shift m : Nat} (hm : m ≤ 2 ^ (p + 1)) (hnormal : shift = 0 ∨ 2 ^ p ≤ m) :
    magOfBits p (shift * 2 ^ p + m) = m * 2 ^ shift := by
  rw [Nat.pow_succ] at hm
  obtain hlt | hge := Nat.lt_or_ge m (2 ^ p)
  · obtain rfl : shift = 0 := hnormal.resolve_right (Nat.not_le.mpr hlt)
    rw [Nat.zero_mul, Nat.zero_add, magOfBits_of_lt hlt, Nat.pow_zero, Nat.mul_one]
  · obtain ⟨f, rfl⟩ := Nat.exists_eq_add_of_le hge
    obtain hf | hf := Nat.lt_or_ge f (2 ^ p)
    · rw [show shift * 2 ^ p + (2 ^ p + f) = (shift + 1) * 2 ^ p + f by ring, magOfBits_normal hf]
    · obtain rfl : f = 2 ^ p := by omega
      rw [show shift * 2 ^ p + (2 ^ p + 2 ^ p) = (shift + 1 + 1) * 2 ^ p + 0 by ring,
        magOfBits_normal (Nat.two_pow_pos p)]
      ring

/-- Every pattern of bits is a significand at a quantum. -/
theorem exists_significand (p k : Nat) :
    ∃ shift m, k = shift * 2 ^ p + m ∧ m < 2 ^ (p + 1) ∧ (shift = 0 ∨ 2 ^ p ≤ m) ∧ magOfBits p k = m * 2 ^ shift := by
  have hpos : 0 < 2 ^ p := Nat.two_pow_pos p
  have hmod := Nat.mod_lt k hpos
  cases hexp : k / 2 ^ p with
  | zero =>
    have hlt : k < 2 ^ p := (Nat.div_eq_zero_iff_lt hpos).mp hexp
    exact ⟨0, k, by simp, by rw [Nat.pow_succ]; omega, .inl rfl, by simp [magOfBits_of_lt hlt]⟩
  | succ e =>
    have hk : k = e * 2 ^ p + (2 ^ p + k % 2 ^ p) := by
      calc k = 2 ^ p * (k / 2 ^ p) + k % 2 ^ p := (Nat.div_add_mod k _).symm
        _ = e * 2 ^ p + (2 ^ p + k % 2 ^ p) := by rw [hexp]; ring
    have hle : 2 ^ p + k % 2 ^ p < 2 ^ (p + 1) := by rw [Nat.pow_succ]; omega
    have hge : 2 ^ p ≤ 2 ^ p + k % 2 ^ p := Nat.le_add_right _ _
    exact ⟨e, _, hk, hle, .inr hge, (congrArg (magOfBits p) hk).trans (magOfBits_add hle.le (.inr hge))⟩

/-- The order of the bits is the order of the magnitudes (R174). -/
theorem magOfBits_strictMono (p : Nat) : StrictMono (magOfBits p) := by
  refine strictMono_nat_of_lt_succ fun k => ?_
  obtain ⟨shift, m, rfl, hm, hnormal, hmag⟩ := exists_significand p k
  rw [hmag, Nat.add_assoc, magOfBits_add hm (hnormal.imp_right Nat.le_succ_of_le)]
  exact Nat.mul_lt_mul_of_pos_right (Nat.lt_succ_self m) (Nat.two_pow_pos shift)

@[simp] theorem magOfBits_zero (p : Nat) : magOfBits p 0 = 0 := magOfBits_of_lt (Nat.two_pow_pos p)

/-- Every significand that fits the format is a magnitude of it, whatever the quantum. -/
theorem exists_magOfBits_eq {p c : Nat} (hc : c < 2 ^ (p + 1)) (j : Nat) : ∃ k, magOfBits p k = c * 2 ^ j := by
  induction j generalizing c with
  | zero => exact ⟨c, by simpa using magOfBits_add (shift := 0) hc.le (.inl rfl)⟩
  | succ j ih =>
    obtain hlt | hge := Nat.lt_or_ge c (2 ^ p)
    · obtain ⟨k, hk⟩ := ih (c := 2 * c) (by rw [Nat.pow_succ]; omega)
      exact ⟨k, by rw [hk]; ring⟩
    · exact ⟨_, magOfBits_add (shift := j + 1) hc.le (.inr hge)⟩

/-- Powers of two multiply by adding exponents, which keeps large powers unevaluated. -/
theorem two_pow_mul_two_pow {a b e : Nat} (h : a + b = e) : 2 ^ a * 2 ^ b = 2 ^ e := by
  rw [← Nat.pow_add, h]

/-! ### The datum of a sign with exponent and fraction bits -/

/-- The datum of the exponent and fraction bits `k` under a sign. -/
def datumOfBits (p expOnes : Nat) (neg : Bool) (k : Nat) : Datum :=
  datumOfFields p expOnes neg (k / 2 ^ p) (k % 2 ^ p)

theorem datumOfBits_finite {p expOnes k : Nat} (neg : Bool) (h : k < expOnes * 2 ^ p) :
    datumOfBits p expOnes neg k = .finite neg (magOfBits p k) := by
  have hne : k / 2 ^ p ≠ expOnes := (Nat.div_lt_of_lt_mul (by rwa [mul_comm])).ne
  rw [datumOfBits, datumOfFields, if_neg hne, magOfBits]
  split <;> rfl

theorem datumOfBits_inf (p expOnes : Nat) (neg : Bool) : datumOfBits p expOnes neg (expOnes * 2 ^ p) = .inf neg := by
  rw [datumOfBits, datumOfFields, Nat.mul_div_cancel _ (Nat.two_pow_pos p), Nat.mul_mod_left, if_pos rfl, if_pos rfl]

theorem datumOfBits_nan {p expOnes k : Nat} (neg : Bool) (hlt : expOnes * 2 ^ p < k) (hle : k < (expOnes + 1) * 2 ^ p) :
    datumOfBits p expOnes neg k = .nan := by
  obtain ⟨f, rfl⟩ := Nat.exists_eq_add_of_lt hlt
  have hf : f + 1 < 2 ^ p := by rw [Nat.add_mul] at hle; omega
  have hdiv : (expOnes * 2 ^ p + f + 1) / 2 ^ p = expOnes := by
    rw [Nat.add_assoc, mul_comm, Nat.mul_add_div (Nat.two_pow_pos p), Nat.div_eq_of_lt hf, Nat.add_zero]
  have hmod : (expOnes * 2 ^ p + f + 1) % 2 ^ p = f + 1 := by
    rw [Nat.add_assoc, mul_comm, Nat.mul_add_mod, Nat.mod_eq_of_lt hf]
  rw [datumOfBits, datumOfFields, hdiv, hmod, if_pos rfl, if_neg (Nat.succ_ne_zero f)]

/-! ### Patterns of binary32 -/

/-- The exponent and fraction bits of a binary32 pattern. -/
def magBits (v : Word) : Nat := (v.extractLsb' 0 31).toNat

theorem magBits_eq (v : Word) : magBits v = v.toNat % 2 ^ 31 := by
  rw [magBits, BitVec.extractLsb'_toNat]; rfl

theorem magBits_lt (v : Word) : magBits v < 2 ^ 31 := (v.extractLsb' 0 31).isLt

theorem f32_eq (v : Word) : f32 v = datumOfBits 23 255 (v.getLsbD 31) (magBits v) := by
  have hexp : (v.extractLsb' 23 8).toNat = magBits v / 2 ^ 23 := by
    rw [magBits_eq, BitVec.extractLsb'_toNat, Nat.shiftRight_eq_div_pow]; omega
  have hfrac : (v.extractLsb' 0 23).toNat = magBits v % 2 ^ 23 := by
    rw [magBits_eq, BitVec.extractLsb'_toNat, Nat.shiftRight_zero]; omega
  rw [f32, hexp, hfrac, datumOfBits]

/-- A pattern of 32 bits is negative exactly if bit 31 is set. -/
theorem getLsbD_31 (v : Word) : v.getLsbD 31 = decide (2 ^ 31 ≤ v.toNat) :=
  (BitVec.msb_eq_getLsbD_last v).symm.trans (BitVec.msb_eq_decide v)

theorem toNat_pack32 (neg : Bool) {k : Nat} (h : k < 2 ^ 31) :
    (pack32 neg k).toNat = (if neg then 2 ^ 31 else 0) + k := by
  rw [pack32, BitVec.toNat_ofNat, Nat.mod_eq_of_lt]
  split <;> omega

theorem getLsbD_31_pack32 (neg : Bool) {k : Nat} (h : k < 2 ^ 31) : (pack32 neg k).getLsbD 31 = neg := by
  rw [getLsbD_31, toNat_pack32 neg h]
  cases neg with
  | false => simpa using h
  | true => simp

theorem magBits_pack32 (neg : Bool) {k : Nat} (h : k < 2 ^ 31) : magBits (pack32 neg k) = k := by
  rw [magBits_eq, toNat_pack32 neg h]
  split <;> omega

/-- Every pattern is its sign with its other bits. -/
theorem pack32_magBits (v : Word) : pack32 (v.getLsbD 31) (magBits v) = v := by
  apply BitVec.eq_of_toNat_eq
  have hlt := v.isLt
  rw [toNat_pack32 _ (magBits_lt v), getLsbD_31, magBits_eq]
  simp only [decide_eq_true_eq]
  split <;> omega

theorem f32_pack32 (neg : Bool) {k : Nat} (h : k < 2 ^ 31) : f32 (pack32 neg k) = datumOfBits 23 255 neg k := by
  rw [f32_eq, getLsbD_31_pack32 neg h, magBits_pack32 neg h]

theorem f32_pack32_finite (neg : Bool) {k : Nat} (h : k < infMag32) :
    f32 (pack32 neg k) = .finite neg (magOfBits 23 k) := by
  rw [f32_pack32 neg (h.trans (by decide)), datumOfBits_finite neg h]

theorem f32_pack32_inf (neg : Bool) : f32 (pack32 neg infMag32) = .inf neg :=
  (f32_pack32 neg (by decide)).trans (datumOfBits_inf 23 255 neg)

/-- The three kinds of binary32 patterns, by their exponent and fraction bits (R174). -/
theorem f32_cases (v : Word) :
    (magBits v < infMag32 ∧ f32 v = .finite (v.getLsbD 31) (magOfBits 23 (magBits v))) ∨
    (magBits v = infMag32 ∧ f32 v = .inf (v.getLsbD 31)) ∨ (infMag32 < magBits v ∧ f32 v = .nan) := by
  rw [f32_eq]
  obtain hlt | heq | hgt := Nat.lt_trichotomy (magBits v) infMag32
  · exact .inl ⟨hlt, datumOfBits_finite _ hlt⟩
  · exact .inr (.inl ⟨heq, heq ▸ datumOfBits_inf 23 255 _⟩)
  · exact .inr (.inr ⟨hgt, datumOfBits_nan _ hgt (magBits_lt v)⟩)

theorem eq_of_f32_finite {v : Word} {n : Bool} {x : Nat} (h : f32 v = .finite n x) :
    magBits v < infMag32 ∧ n = v.getLsbD 31 ∧ x = magOfBits 23 (magBits v) := by
  obtain ⟨hlt, hv⟩ | ⟨_, hv⟩ | ⟨_, hv⟩ := f32_cases v <;> rw [hv] at h <;> cases h
  exact ⟨hlt, rfl, rfl⟩

/-- An infinity has one pattern for each sign. -/
theorem eq_of_f32_inf {v : Word} {n : Bool} (h : f32 v = .inf n) : pack32 n infMag32 = v := by
  obtain ⟨_, hv⟩ | ⟨heq, hv⟩ | ⟨_, hv⟩ := f32_cases v <;> rw [hv] at h <;> cases h
  rw [← heq, pack32_magBits]

/-- The magnitude of the binary32 infinity, were it a finite datum. -/
theorem magOfBits_infMag32 : magOfBits 23 infMag32 = 2 ^ 277 := by
  rw [show infMag32 = 254 * 2 ^ 23 + 2 ^ 23 from rfl, magOfBits_add (by decide) (.inr le_rfl)]
  exact two_pow_mul_two_pow rfl

/-- The largest finite magnitude of binary32. -/
theorem magOfBits_maxFinite32 : magOfBits 23 (infMag32 - 1) = 2 ^ 277 - 2 ^ 253 := by
  rw [show infMag32 - 1 = 253 * 2 ^ 23 + (2 ^ 24 - 1) from rfl, magOfBits_add (by decide) (.inr (by decide)),
    Nat.sub_mul, Nat.one_mul, two_pow_mul_two_pow (e := 277) rfl]

theorem lt_of_f32_finite {v : Word} {n : Bool} {x : Nat} (h : f32 v = .finite n x) : x < 2 ^ 277 := by
  obtain ⟨hlt, _, rfl⟩ := eq_of_f32_finite h
  exact magOfBits_infMag32 ▸ magOfBits_strictMono 23 hlt

/-! ### Patterns of binary64 -/

theorem toNat_pack64 (neg : Bool) {k : Nat} (h : k < 2 ^ 63) :
    (pack64 neg k).toNat = (if neg then 2 ^ 63 else 0) + k := by
  rw [pack64, BitVec.toNat_ofNat, Nat.mod_eq_of_lt]
  split <;> omega

theorem f64_eq (v : BitVec 64) : f64 v = datumOfBits 52 2047 (decide (2 ^ 63 ≤ v.toNat)) (v.toNat % 2 ^ 63) := by
  have hsign : v.getLsbD 63 = decide (2 ^ 63 ≤ v.toNat) :=
    (BitVec.msb_eq_getLsbD_last v).symm.trans (BitVec.msb_eq_decide v)
  have hexp : (v.extractLsb' 52 11).toNat = v.toNat % 2 ^ 63 / 2 ^ 52 := by
    rw [BitVec.extractLsb'_toNat, Nat.shiftRight_eq_div_pow]; omega
  have hfrac : (v.extractLsb' 0 52).toNat = v.toNat % 2 ^ 63 % 2 ^ 52 := by
    rw [BitVec.extractLsb'_toNat, Nat.shiftRight_zero]; omega
  rw [f64, hsign, hexp, hfrac, datumOfBits]

theorem f64_pack64 (neg : Bool) {k : Nat} (h : k < 2 ^ 63) : f64 (pack64 neg k) = datumOfBits 52 2047 neg k := by
  have hsign : decide (2 ^ 63 ≤ (if neg then 2 ^ 63 else 0) + k) = neg := by
    cases neg with
    | false => simpa using h
    | true => simp
  have hmag : ((if neg then 2 ^ 63 else 0) + k) % 2 ^ 63 = k := by split <;> omega
  rw [f64_eq, toNat_pack64 neg h, hsign, hmag]

theorem f64_pack64_finite (neg : Bool) {k : Nat} (h : k < infMag64) :
    f64 (pack64 neg k) = .finite neg (magOfBits 52 k) := by
  rw [f64_pack64 neg (h.trans (by decide)), datumOfBits_finite neg h]

theorem f64_pack64_inf (neg : Bool) : f64 (pack64 neg infMag64) = .inf neg :=
  (f64_pack64 neg (by decide)).trans (datumOfBits_inf 52 2047 neg)

theorem f64_pack64_zero (neg : Bool) : f64 (pack64 neg 0) = .finite neg 0 :=
  (f64_pack64_finite neg (by decide)).trans (by rw [magOfBits_zero])

/-- A finite binary64 magnitude is one of the format's. -/
theorem eq_of_f64_finite {v : BitVec 64} {n : Bool} {z : Nat} (h : f64 v = .finite n z) :
    ∃ k, z = magOfBits 52 k := by
  rw [f64_eq] at h
  refine ⟨v.toNat % 2 ^ 63, ?_⟩
  obtain hlt | heq | hgt := Nat.lt_trichotomy (v.toNat % 2 ^ 63) infMag64
  · rw [datumOfBits_finite _ hlt] at h; cases h; rfl
  · rw [heq, show infMag64 = 2047 * 2 ^ 52 from rfl, datumOfBits_inf] at h; cases h
  · rw [datumOfBits_nan (p := 52) (expOnes := 2047) _ hgt (Nat.mod_lt _ (by decide))] at h; cases h

/-- The magnitude of the binary64 infinity, were it a finite datum. -/
theorem magOfBits_infMag64 : magOfBits 52 infMag64 = 2 ^ 2098 := by
  rw [show infMag64 = 2046 * 2 ^ 52 + 2 ^ 52 from rfl, magOfBits_add (by decide) (.inr le_rfl)]
  exact two_pow_mul_two_pow rfl

end Sys2Proof.Machine
end

section
/-! The float family: rounding to nearest with ties to even in a format of any width, the three operations on every kind
of operand, and the comparison (42_alu.md sections 3 and 4). -/
namespace Sys2Proof.Machine

/-! ### Rounding a quotient to an integer -/

/-- Everything `divNearestEven` can answer: the quotient or its successor, by the remainder; on a tie the even one. -/
theorem divNearestEven_cases (num den : Nat) :
    (2 * (num % den) < den ∧ divNearestEven num den = num / den) ∨
    (den < 2 * (num % den) ∧ divNearestEven num den = num / den + 1) ∨
    (2 * (num % den) = den ∧ (divNearestEven num den = num / den ∨ divNearestEven num den = num / den + 1) ∧
      divNearestEven num den % 2 = 0) := by
  simp only [divNearestEven]
  split
  · exact .inl ⟨‹_›, rfl⟩
  · split
    · exact .inr (.inl ⟨‹_›, rfl⟩)
    · split
      · exact .inr (.inr ⟨by omega, .inl rfl, ‹_›⟩)
      · exact .inr (.inr ⟨by omega, .inr rfl, by omega⟩)

/-- The multiple of `den` that `divNearestEven` picks is nearest to `num`; on a tie it is the even one. -/
theorem divNearestEven_nearest {num den : Nat} (hden : 0 < den) (z : Nat) :
    ((divNearestEven num den * den : Int) - num).natAbs ≤ ((z * den : Int) - num).natAbs ∧
      (((divNearestEven num den * den : Int) - num).natAbs = ((z * den : Int) - num).natAbs →
        z ≠ divNearestEven num den → divNearestEven num den % 2 = 0) := by
  have hnum : num / den * den + num % den = num := Nat.div_add_mod' num den
  have hr := Nat.mod_lt num hden
  have hcases := divNearestEven_cases num den
  generalize divNearestEven num den = m at *
  generalize num / den = q at *
  have hsucc : (q + 1) * den = q * den + den := Nat.succ_mul q den
  have hz : (z + 1) * den ≤ q * den ∨ z = q ∨ z = q + 1 ∨ (q + 1 + 1) * den ≤ z * den := by
    obtain h | h | h | h : z + 1 ≤ q ∨ z = q ∨ z = q + 1 ∨ q + 1 + 1 ≤ z := by omega
    · exact .inl (Nat.mul_le_mul_right den h)
    · exact .inr (.inl h)
    · exact .inr (.inr (.inl h))
    · exact .inr (.inr (.inr (Nat.mul_le_mul_right den h)))
  rw [Nat.succ_mul z, Nat.succ_mul (q + 1), hsucc] at hz
  simp only [← Int.natCast_mul]
  obtain ⟨hlow, rfl⟩ | ⟨hhigh, rfl⟩ | ⟨htie, rfl | rfl, heven⟩ := hcases <;>
    obtain hz | rfl | rfl | hz := hz <;> omega

/-- Bounds on the quotient are bounds on its rounding. -/
theorem le_divNearestEven {num den c : Nat} (hden : 0 < den) (h : c * den ≤ num) : c ≤ divNearestEven num den := by
  have hq : c ≤ num / den := (Nat.le_div_iff_mul_le hden).mpr h
  obtain ⟨_, hm⟩ | ⟨_, hm⟩ | ⟨_, hm | hm, _⟩ := divNearestEven_cases num den <;> omega

theorem divNearestEven_le {num den c : Nat} (hden : 0 < den) (h : num < c * den) : divNearestEven num den ≤ c := by
  have hq : num / den < c := (Nat.div_lt_iff_lt_mul hden).mpr h
  obtain ⟨_, hm⟩ | ⟨_, hm⟩ | ⟨_, hm | hm, _⟩ := divNearestEven_cases num den <;> omega

/-! ### Rounding to a format -/

/-- The quantum of `roundMag` leaves a quotient of at most `p + 1` binary places, and of no fewer where it is not the
least one. -/
theorem quantumShift_bounds (p num : Nat) {den : Nat} (hden : 0 < den) :
    num < 2 ^ (p + 1) * (den * 2 ^ quantumShift p num den) ∧
      (quantumShift p num den = 0 ∨ 2 ^ p * (den * 2 ^ quantumShift p num den) ≤ num) := by
  have hle : Nat.log2 (num / den) ≤ p + quantumShift p num den := by rw [quantumShift]; omega
  have hupper : num / den < 2 ^ (p + 1 + quantumShift p num den) :=
    Nat.lt_log2_self.trans_le (Nat.pow_le_pow_right (by decide) (by omega))
  refine ⟨?_, ?_⟩
  · have := (Nat.div_lt_iff_lt_mul hden).mp hupper
    calc num < 2 ^ (p + 1 + quantumShift p num den) * den := this
      _ = _ := by rw [Nat.pow_add]; ring
  · by_cases hzero : quantumShift p num den = 0
    · exact .inl hzero
    · have hlog : p + quantumShift p num den = Nat.log2 (num / den) := by rw [quantumShift] at *; omega
      have hne : num / den ≠ 0 := fun h => hzero (by rw [quantumShift, h]; simp)
      have hlower : 2 ^ (p + quantumShift p num den) ≤ num / den := hlog ▸ Nat.log2_self_le hne
      have := (Nat.le_div_iff_mul_le hden).mp hlower
      exact .inr (by rw [Nat.pow_add] at this; linarith)

/-- The bits of `roundMag` before the overflow to infinity. -/
def roundBits (p num den : Nat) : Nat :=
  quantumShift p num den * 2 ^ p + divNearestEven num (den * 2 ^ quantumShift p num den)

theorem roundMag_of_lt {p infMag num den : Nat} (h : roundBits p num den < infMag) :
    roundMag p infMag num den = roundBits p num den := if_neg (Nat.not_le.mpr h)

theorem roundMag_of_ge {p infMag num den : Nat} (h : infMag ≤ roundBits p num den) :
    roundMag p infMag num den = infMag := if_pos h

/-- The bits stand for the rounded significand at its quantum, also where rounding carries into the next binade. -/
theorem magOfBits_roundBits (p num : Nat) {den : Nat} (hden : 0 < den) :
    magOfBits p (roundBits p num den) =
      divNearestEven num (den * 2 ^ quantumShift p num den) * 2 ^ quantumShift p num den := by
  have hpos : 0 < den * 2 ^ quantumShift p num den := Nat.mul_pos hden (Nat.two_pow_pos _)
  obtain ⟨hupper, hlower⟩ := quantumShift_bounds p num hden
  exact magOfBits_add (divNearestEven_le hpos hupper) (hlower.imp_right (le_divNearestEven hpos))

/-- The bits are even exactly as the significand is. -/
theorem roundBits_mod_two {p : Nat} (hp : 0 < p) (num den : Nat) :
    roundBits p num den % 2 = divNearestEven num (den * 2 ^ quantumShift p num den) % 2 := by
  obtain ⟨p, rfl⟩ := Nat.exists_eq_succ_of_ne_zero hp.ne'
  rw [roundBits, Nat.pow_succ, ← Nat.mul_assoc, Nat.mul_add_mod_self_right]

/-- Rounding to nearest, ties to even (D14): no magnitude of the format is nearer to `num / den` than the one of the
bits, and where another is as near the bits are even. -/
theorem roundBits_nearest {p : Nat} (hp : 0 < p) (num : Nat) {den : Nat} (hden : 0 < den) (k : Nat) :
    ((magOfBits p (roundBits p num den) * den : Int) - num).natAbs ≤ ((magOfBits p k * den : Int) - num).natAbs ∧
      (((magOfBits p (roundBits p num den) * den : Int) - num).natAbs = ((magOfBits p k * den : Int) - num).natAbs →
        magOfBits p k ≠ magOfBits p (roundBits p num den) → roundBits p num den % 2 = 0) := by
  have hpos : 0 < den * 2 ^ quantumShift p num den := Nat.mul_pos hden (Nat.two_pow_pos _)
  obtain ⟨_, hlower⟩ := quantumShift_bounds p num hden
  obtain ⟨shift, m, _, hm, _, hk⟩ := exists_significand p k
  rw [roundBits_mod_two hp, magOfBits_roundBits p num hden, hk]
  have hnearest (z : Nat) := divNearestEven_nearest (num := num) hpos z
  generalize quantumShift p num den = q at *
  generalize divNearestEven num (den * 2 ^ q) = r at *
  have hscale (z : Nat) : z * 2 ^ q * den = z * (den * 2 ^ q) := by ring
  simp only [← Int.natCast_mul] at hnearest ⊢
  rw [hscale r]
  obtain hlt | hge := Nat.lt_or_ge shift q
  · have hbelow : m * 2 ^ shift * den < 2 ^ p * (den * 2 ^ q) := by
      calc m * 2 ^ shift * den < 2 ^ (p + 1) * 2 ^ shift * den :=
            Nat.mul_lt_mul_of_pos_right (Nat.mul_lt_mul_of_pos_right hm (Nat.two_pow_pos _)) hden
        _ = 2 ^ (shift + 1) * (2 ^ p * den) := by ring
        _ ≤ 2 ^ q * (2 ^ p * den) := Nat.mul_le_mul_right _ (Nat.pow_le_pow_right (by decide) hlt)
        _ = 2 ^ p * (den * 2 ^ q) := by ring
    have hreach := hlower.resolve_left (Nat.ne_zero_of_lt hlt)
    obtain ⟨hle, _⟩ := hnearest (2 ^ p)
    generalize 2 ^ p * (den * 2 ^ q) = lowest at *
    generalize m * 2 ^ shift * den = other at *
    constructor
    · omega
    · intro htie; omega
  · obtain ⟨d, rfl⟩ := Nat.exists_eq_add_of_le hge
    have hmultiple : m * 2 ^ (q + d) = m * 2 ^ d * 2 ^ q := by rw [Nat.pow_add]; ring
    obtain ⟨hle, heven⟩ := hnearest (m * 2 ^ d)
    rw [hmultiple, hscale]
    exact ⟨hle, fun htie hne => heven htie fun heq => hne (by rw [heq])⟩

/-- Rounding does not cross a magnitude of the format. -/
theorem le_magOfBits_roundBits {p num den k : Nat} (hp : 0 < p) (hden : 0 < den) (h : magOfBits p k * den ≤ num) :
    magOfBits p k ≤ magOfBits p (roundBits p num den) := by
  by_contra hlt
  have hmul := Nat.mul_lt_mul_of_pos_right (Nat.not_le.mp hlt) hden
  obtain ⟨hle, _⟩ := roundBits_nearest hp num hden k
  simp only [← Int.natCast_mul] at hle
  omega

theorem magOfBits_roundBits_le {p num den k : Nat} (hp : 0 < p) (hden : 0 < den) (h : num ≤ magOfBits p k * den) :
    magOfBits p (roundBits p num den) ≤ magOfBits p k := by
  by_contra hlt
  have hmul := Nat.mul_lt_mul_of_pos_right (Nat.not_le.mp hlt) hden
  obtain ⟨hle, _⟩ := roundBits_nearest hp num hden k
  simp only [← Int.natCast_mul] at hle
  omega

/-- A magnitude of the format rounds to itself. -/
theorem magOfBits_roundBits_self {p : Nat} (hp : 0 < p) (k : Nat) :
    magOfBits p (roundBits p (magOfBits p k) 1) = magOfBits p k :=
  le_antisymm (magOfBits_roundBits_le hp Nat.one_pos (Nat.mul_one _).ge)
    (le_magOfBits_roundBits hp Nat.one_pos (Nat.mul_one _).le)

/-- `roundBits_nearest` for a whole number of units. -/
theorem roundBits_one_nearest {p : Nat} (hp : 0 < p) (num k : Nat) :
    ((magOfBits p (roundBits p num 1) : Int) - num).natAbs ≤ ((magOfBits p k : Int) - num).natAbs ∧
      (((magOfBits p (roundBits p num 1) : Int) - num).natAbs = ((magOfBits p k : Int) - num).natAbs →
        magOfBits p k ≠ magOfBits p (roundBits p num 1) → roundBits p num 1 % 2 = 0) := by
  simpa using roundBits_nearest hp num Nat.one_pos k

/-! ### The sum -/

theorem Datum.toInt?_eq_some {d : Datum} {x : Int} (h : d.toInt? = some x) :
    ∃ n m, d = .finite n m ∧ signedMag n m = x := by
  cases d with
  | finite n m => exact ⟨n, m, rfl, Option.some.inj h⟩
  | nan => cases h
  | inf n => cases h

/-- A sum that is exactly 0 is a zero, of either sign (R175). -/
theorem fAdd32_of_sum_zero {a b : Word} {n m : Bool} {x y : Nat} (ha : f32 a = .finite n x) (hb : f32 b = .finite m y)
    (hsum : signedMag n x + signedMag m y = 0) : fAdd32 a b = pack32 (decide (x = 0 ∧ y = 0) && (n && m)) 0 := by
  simp only [fAdd32, ha, hb, hsum, if_true]
  by_cases h : x = 0 ∧ y = 0
  · rw [if_pos h, decide_eq_true h, Bool.true_and]
  · rw [if_neg h, decide_eq_false h, Bool.false_and]

/-- Any other finite sum is the rounding of the exact one. -/
theorem fAdd32_of_sum_ne_zero {a b : Word} {n m : Bool} {x y : Nat} (ha : f32 a = .finite n x)
    (hb : f32 b = .finite m y) (hsum : signedMag n x + signedMag m y ≠ 0) :
    fAdd32 a b = round32 (decide (signedMag n x + signedMag m y < 0)) (signedMag n x + signedMag m y).natAbs 1 := by
  have hzero : ¬ (x = 0 ∧ y = 0) := by
    rintro ⟨rfl, rfl⟩
    exact hsum (by cases n <;> cases m <;> rfl)
  simp only [fAdd32, ha, hb, if_neg hzero, if_neg hsum]

/-- A whole number of units rounds to a finite binary32 datum exactly below 2^128 - 2^103 (D14). -/
theorem roundBits_lt_infMag32_iff (num : Nat) : roundBits 23 num 1 < infMag32 ↔ num < 2 ^ 277 - 2 ^ 252 := by
  have hinf := roundBits_one_nearest (p := 23) (by decide) num infMag32
  have hmax := roundBits_one_nearest (p := 23) (by decide) num (infMag32 - 1)
  have hmono := magOfBits_strictMono 23
  have hodd : (infMag32 - 1) % 2 = 1 := by decide
  have htop : 2 ^ 25 * 2 ^ 252 = 2 ^ 277 := two_pow_mul_two_pow rfl
  have hhalf : 0 < 2 ^ 252 := Nat.two_pow_pos 252
  have hgap : 2 ^ 1 * 2 ^ 252 = 2 ^ 253 := two_pow_mul_two_pow rfl
  have hround (h : roundBits 23 num 1 < infMag32) :
      magOfBits 23 (roundBits 23 num 1) ≤ magOfBits 23 (infMag32 - 1) := hmono.monotone (Nat.le_sub_one_of_lt h)
  have hround' (h : infMag32 ≤ roundBits 23 num 1) :
      magOfBits 23 infMag32 ≤ magOfBits 23 (roundBits 23 num 1) := hmono.monotone h
  have hinj (h : magOfBits 23 (roundBits 23 num 1) = magOfBits 23 (infMag32 - 1)) :
      roundBits 23 num 1 = infMag32 - 1 := hmono.injective h
  rw [magOfBits_infMag32] at hinf hround'
  rw [magOfBits_maxFinite32] at hmax hround hinj
  generalize (2 : Nat) ^ 277 = top at *
  generalize (2 : Nat) ^ 253 = gap at *
  generalize (2 : Nat) ^ 252 = half at *
  generalize magOfBits 23 (roundBits 23 num 1) = r at *
  obtain ⟨hinf, htie⟩ := hinf
  obtain ⟨hmax, _⟩ := hmax
  obtain hfin | hover := Nat.lt_or_ge (roundBits 23 num 1) infMag32
  · have := hround hfin
    refine iff_of_true hfin ?_
    by_contra hge
    have heven := htie (by omega) (by omega)
    rw [hinj (by omega), hodd] at heven
    exact absurd heven (by decide)
  · have := hround' hover
    exact iff_of_false (by omega) (by omega)

/-- Nearness of magnitudes is nearness under the sign of the number that is rounded, and no datum of the other sign is
nearer. -/
theorem signedMag_nearest {r num x : Nat} (neg n : Bool) (hpos : 0 < num)
    (hle : ((r : Int) - num).natAbs ≤ ((x : Int) - num).natAbs) :
    (signedMag neg r - signedMag neg num).natAbs ≤ (signedMag n x - signedMag neg num).natAbs ∧
      ((signedMag neg r - signedMag neg num).natAbs = (signedMag n x - signedMag neg num).natAbs →
        signedMag n x ≠ signedMag neg r → ((r : Int) - num).natAbs = ((x : Int) - num).natAbs ∧ x ≠ r) := by
  cases neg <;> cases n <;> simp only [signedMag, if_true, Bool.false_eq_true, if_false] <;> omega

/-- An integer from its sign and its magnitude. -/
theorem signedMag_natAbs (x : Int) : signedMag (decide (x < 0)) x.natAbs = x := by
  by_cases h : x < 0 <;> simp only [signedMag, h, decide_true, decide_false, if_true, Bool.false_eq_true, if_false] <;>
    omega

/-- The last fraction bit of a pattern. -/
theorem getLsbD_zero_pack32 (neg : Bool) (k : Nat) : (pack32 neg k).getLsbD 0 = decide (k % 2 = 1) := by
  rw [pack32, BitVec.getLsbD_ofNat, Nat.testBit_zero]
  cases neg <;> simp [Nat.add_mod]

/-- A finite sum is nearest even: no binary32 datum is nearer to the exact sum, and on a tie the result is even. -/
theorem round32_nearest {num : Nat} (neg : Bool) (hpos : 0 < num) (hlt : num < 2 ^ 277 - 2 ^ 252) :
    ∃ r : Int, (f32 (round32 neg num 1)).toInt? = some r ∧ ∀ (c : Word) (z : Int), (f32 c).toInt? = some z →
      (r - signedMag neg num).natAbs ≤ (z - signedMag neg num).natAbs ∧
      ((r - signedMag neg num).natAbs = (z - signedMag neg num).natAbs → z ≠ r →
        (round32 neg num 1).getLsbD 0 = false) := by
  have hfinite := (roundBits_lt_infMag32_iff num).mpr hlt
  have hround : round32 neg num 1 = pack32 neg (roundBits 23 num 1) := by rw [round32, roundMag_of_lt hfinite]
  refine ⟨signedMag neg (magOfBits 23 (roundBits 23 num 1)), ?_, fun c z hz => ?_⟩
  · rw [hround, f32_pack32_finite neg hfinite]; rfl
  · obtain ⟨n, x, hc, rfl⟩ := Datum.toInt?_eq_some hz
    obtain ⟨_, _, rfl⟩ := eq_of_f32_finite hc
    obtain ⟨hle, heven⟩ := roundBits_one_nearest (p := 23) (by decide) num (magBits c)
    rw [hround, getLsbD_zero_pack32]
    obtain ⟨hnear, hties⟩ := signedMag_nearest neg n hpos hle
    refine ⟨hnear, fun htie hne => ?_⟩
    obtain ⟨htie', hne'⟩ := hties htie hne
    rw [heven htie' hne']; rfl

/-- A sum that is 0 is the nearest datum itself. -/
theorem pack32_zero_nearest (neg : Bool) :
    ∃ r : Int, (f32 (pack32 neg 0)).toInt? = some r ∧ ∀ (c : Word) (z : Int), (f32 c).toInt? = some z →
      (r - 0).natAbs ≤ (z - 0).natAbs ∧
      ((r - 0).natAbs = (z - 0).natAbs → z ≠ r → (pack32 neg 0).getLsbD 0 = false) := by
  refine ⟨0, ?_, fun c z _ => ⟨Nat.zero_le _, fun htie hne => absurd ?_ hne⟩⟩
  · rw [f32_pack32_finite neg (by decide), magOfBits_zero]
    cases neg <;> rfl
  · omega

/-- Settles O24: a sum of 0 is exact, any other is one rounding of the exact sum, to infinity from the bound on. -/
theorem floatAddRoundsToNearestEven : Obligations.FloatAddRoundsToNearestEven := by
  intro a b x y hx hy
  obtain ⟨n, xm, ha, rfl⟩ := Datum.toInt?_eq_some hx
  obtain ⟨m, ym, hb, rfl⟩ := Datum.toInt?_eq_some hy
  by_cases hsum : signedMag n xm + signedMag m ym = 0
  · rw [fAdd32_of_sum_zero ha hb hsum, hsum]
    have hbound := (roundBits_lt_infMag32_iff 0).mp (by decide)
    exact ⟨fun hle => absurd (hbound.trans_le hle) (lt_irrefl 0), fun _ => pack32_zero_nearest _⟩
  · rw [fAdd32_of_sum_ne_zero ha hb hsum]
    generalize signedMag n xm + signedMag m ym = sum at *
    refine ⟨fun hle => ?_, fun hlt => ?_⟩
    · have hover := Nat.not_lt.mp (mt (roundBits_lt_infMag32_iff sum.natAbs).mp (Nat.not_lt.mpr hle))
      rw [round32, roundMag_of_ge hover, f32_pack32_inf]
    · have hnearest := round32_nearest (decide (sum < 0)) (Int.natAbs_pos.mpr hsum) hlt
      rwa [signedMag_natAbs] at hnearest

end Sys2Proof.Machine
end

section
/-! The float family, continued: the special values of the sum, the product and the quotient, their exactness and rounding,
and the comparison (42_alu.md sections 3 and 4). -/
namespace Sys2Proof.Machine

/-! ### NaN operands: on either side they give the canonical NaN (D15) -/

theorem fAdd32_nan {a b : Word} (h : f32 a = .nan ∨ f32 b = .nan) : fAdd32 a b = qnan32 := by
  obtain h | h := h
  · simp only [fAdd32, h]
  · cases ha : f32 a <;> simp only [fAdd32, h, ha]

theorem fMul64_nan {a b : Word} (h : f32 a = .nan ∨ f32 b = .nan) : fMul64 a b = qnan64 := by
  obtain h | h := h
  · simp only [fMul64, h]
  · cases ha : f32 a <;> simp only [fMul64, h, ha]

theorem fDiv64_nan {a b : Word} (h : f32 a = .nan ∨ f32 b = .nan) : fDiv64 a b = qnan64 := by
  obtain h | h := h
  · simp only [fDiv64, h]
  · cases ha : f32 a <;> simp only [fDiv64, h, ha]

/-! ### Special values and symmetry of the sum -/

/-- Settles O23: the operation's arms, with an infinity's one pattern and the sign of a zero sum. -/
theorem floatAddSpecialValues : Obligations.FloatAddSpecialValues := by
  intro a b n m x y
  refine ⟨fAdd32_nan, ?opposite, ?same, ?infFinite, ?zeros, ?cancel⟩
  case opposite =>
    intro ha hb
    simp only [fAdd32, ha, hb]
    cases n <;> rfl
  case same =>
    intro ha hb
    simp only [fAdd32, ha, hb, if_true]
    exact eq_of_f32_inf ha
  case infFinite =>
    intro ha hb
    constructor <;> simp only [fAdd32, ha, hb] <;> exact eq_of_f32_inf ha
  case zeros =>
    intro ha hb
    rw [fAdd32_of_sum_zero ha hb (by cases n <;> cases m <;> rfl)]
    cases n <;> cases m <;> rfl
  case cancel =>
    intro ha hb hx hsum
    rw [fAdd32_of_sum_zero ha hb hsum, decide_eq_false fun ⟨hzero, _⟩ => hx hzero]
    rfl

/-- Settles O28: the sum of integers, the products of magnitudes and the signs' operations are commutative. -/
theorem floatAddMulCommute : Obligations.FloatAddMulCommute := by
  intro a b
  cases ha : f32 a with
  | nan => simp only [fAdd32_nan (.inl ha), fAdd32_nan (.inr ha), fMul64_nan (.inl ha), fMul64_nan (.inr ha), and_self]
  | inf n =>
    cases hb : f32 b with
    | nan => simp only [fAdd32_nan (.inl hb), fAdd32_nan (.inr hb), fMul64_nan (.inl hb), fMul64_nan (.inr hb), and_self]
    | inf m => simp only [fAdd32, fMul64, ha, hb, Bool.xor_comm n m]; cases n <;> cases m <;> simp
    | finite m y => simp only [fAdd32, fMul64, ha, hb, Bool.xor_comm n m, and_self]
  | finite n x =>
    cases hb : f32 b with
    | nan => simp only [fAdd32_nan (.inl hb), fAdd32_nan (.inr hb), fMul64_nan (.inl hb), fMul64_nan (.inr hb), and_self]
    | inf m => simp only [fAdd32, fMul64, ha, hb, Bool.xor_comm n m, and_self]
    | finite m y =>
      simp only [fAdd32, fMul64, ha, hb, Bool.xor_comm n m, Bool.and_comm n m, and_comm (a := x = 0), or_comm (a := x = 0),
        add_comm (signedMag n x), mul_comm x y, and_self]

/-! ### The product -/

/-- The magnitude of a finite binary32 datum, as a significand of 24 binary places at a quantum. -/
theorem significand_of_f32_finite {v : Word} {n : Bool} {x : Nat} (h : f32 v = .finite n x) :
    ∃ c j, c < 2 ^ 24 ∧ x = c * 2 ^ j := by
  obtain ⟨_, _, rfl⟩ := eq_of_f32_finite h
  obtain ⟨j, c, _, hc, _, hmag⟩ := exists_significand 23 (magBits v)
  exact ⟨c, j, hc, hmag⟩

/-- A product of two significands of 24 places has at most 48, and binary64 holds 53: it is one of its magnitudes. -/
theorem exists_magOfBits_product {a b : Word} {n m : Bool} {x y : Nat} (ha : f32 a = .finite n x)
    (hb : f32 b = .finite m y) : ∃ k, magOfBits 52 k = x * y * 2 ^ 776 := by
  obtain ⟨c, i, hc, rfl⟩ := significand_of_f32_finite ha
  obtain ⟨d, j, hd, rfl⟩ := significand_of_f32_finite hb
  have hcd : c * d < 2 ^ (52 + 1) :=
    calc c * d < 2 ^ 24 * 2 ^ 24 := Nat.mul_lt_mul'' hc hd
      _ < 2 ^ (52 + 1) := by decide
  obtain ⟨k, hk⟩ := exists_magOfBits_eq hcd (i + j + 776)
  exact ⟨k, by rw [hk, pow_add, pow_add]; generalize 2 ^ 776 = t; ring⟩

/-- Bits whose magnitude lies below the infinity's are finite. -/
theorem lt_infMag64_of_magOfBits_lt {k : Nat} (h : magOfBits 52 k < 2 ^ 2098) : k < infMag64 := by
  rwa [← magOfBits_infMag64, (magOfBits_strictMono 52).lt_iff_lt] at h

/-- Bounds by powers of two multiply. -/
theorem mul_lt_two_pow {x y a b e : Nat} (hx : x < 2 ^ a) (hy : y < 2 ^ b) (h : a + b = e) : x * y < 2 ^ e :=
  two_pow_mul_two_pow h ▸ Nat.mul_lt_mul'' hx hy

theorem mul_two_pow_lt {x a b e : Nat} (hx : x < 2 ^ a) (h : a + b = e) : x * 2 ^ b < 2 ^ e :=
  two_pow_mul_two_pow h ▸ Nat.mul_lt_mul_of_pos_right hx (Nat.two_pow_pos b)

theorem lt_two_pow_of_le {x a e : Nat} (hx : x < 2 ^ a) (h : a ≤ e) : x < 2 ^ e :=
  hx.trans_le (Nat.pow_le_pow_right (by decide) h)

/-- The products of binary32 magnitudes stay far below binary64's limit. -/
theorem product_lt {a b : Word} {n m : Bool} {x y : Nat} (ha : f32 a = .finite n x) (hb : f32 b = .finite m y) :
    x * y * 2 ^ 776 < 2 ^ 2098 :=
  have hxy : x * y < 2 ^ 554 := mul_lt_two_pow (lt_of_f32_finite ha) (lt_of_f32_finite hb) rfl
  lt_two_pow_of_le (mul_two_pow_lt (e := 1330) hxy rfl) (by decide)

/-- Settles O25: the exact product is a magnitude of binary64 below its limit, and such a magnitude rounds to itself. -/
theorem floatMulIsExact : Obligations.FloatMulIsExact := by
  intro a b n m x y ha hb
  simp only [fMul64, ha, hb]
  by_cases hzero : x = 0 ∨ y = 0
  · rw [if_pos hzero, f64_pack64_zero]
    generalize 2 ^ 776 = unit
    rw [Nat.mul_eq_zero.mpr hzero, Nat.zero_mul]
  · obtain ⟨k, hk⟩ := exists_magOfBits_product ha hb
    have hself := magOfBits_roundBits_self (p := 52) (by decide) k
    rw [hk] at hself
    have hfinite : roundBits 52 (x * y * 2 ^ 776) 1 < infMag64 :=
      lt_infMag64_of_magOfBits_lt (hself.trans_lt (product_lt ha hb))
    rw [if_neg hzero, round64, roundMag_of_lt hfinite, f64_pack64_finite _ hfinite, hself]

/-! ### The quotient -/

/-- A finite non-zero quotient is one rounding of the exact one. -/
theorem fDiv64_finite {a b : Word} {n m : Bool} {x y : Nat} (ha : f32 a = .finite n x) (hb : f32 b = .finite m y)
    (hx : x ≠ 0) (hy : y ≠ 0) : fDiv64 a b = round64 (n ^^ m) (x * 2 ^ 1074) y := by
  simp only [fDiv64, ha, hb, if_neg hx, if_neg hy]

/-- The exact quotient of two finite non-zero binary32 data lies among binary64's normal magnitudes. -/
theorem quotient_bounds {a b : Word} {n m : Bool} {x y : Nat} (ha : f32 a = .finite n x) (hb : f32 b = .finite m y)
    (hx : x ≠ 0) (hy : y ≠ 0) : 2 ^ 52 * y ≤ x * 2 ^ 1074 ∧ x * 2 ^ 1074 ≤ 2 ^ 1351 * y := by
  have hlow : 2 ^ 52 * y < 2 ^ 329 := by
    rw [mul_comm]; exact mul_two_pow_lt (lt_of_f32_finite hb) rfl
  have hhigh : x * 2 ^ 1074 < 2 ^ 1351 := mul_two_pow_lt (lt_of_f32_finite ha) rfl
  refine ⟨(lt_two_pow_of_le (e := 1074) hlow (by decide)).le.trans ?_, hhigh.le.trans ?_⟩
  · exact Nat.le_mul_of_pos_left _ (Nat.pos_of_ne_zero hx)
  · exact Nat.le_mul_of_pos_right _ (Nat.pos_of_ne_zero hy)

/-- So its rounding is a normal finite magnitude. -/
theorem roundBits_quotient {a b : Word} {n m : Bool} {x y : Nat} (ha : f32 a = .finite n x) (hb : f32 b = .finite m y)
    (hx : x ≠ 0) (hy : y ≠ 0) :
    roundBits 52 (x * 2 ^ 1074) y < infMag64 ∧ 2 ^ 52 ≤ magOfBits 52 (roundBits 52 (x * 2 ^ 1074) y) := by
  obtain ⟨hlow, hhigh⟩ := quotient_bounds ha hb hx hy
  have hpos := Nat.pos_of_ne_zero hy
  generalize x * 2 ^ 1074 = num at *
  obtain ⟨k, hk⟩ := exists_magOfBits_eq (p := 52) (c := 1) (by decide) 1351
  obtain ⟨l, hl⟩ := exists_magOfBits_eq (p := 52) (c := 1) (by decide) 52
  rw [Nat.one_mul] at hk hl
  refine ⟨lt_infMag64_of_magOfBits_lt ?_, ?_⟩
  · have hle := magOfBits_roundBits_le (p := 52) (by decide) hpos (hk ▸ hhigh)
    exact (hle.trans hk.le).trans_lt (pow_lt_pow_right₀ Nat.one_lt_two (by decide))
  · exact hl.ge.trans (le_magOfBits_roundBits (by decide) hpos (hl ▸ hlow))

theorem natCast_mul_two_pow (x e : Nat) : ((x * 2 ^ e : Nat) : Int) = x * 2 ^ e := by push_cast; rfl

/-- The last fraction bit of a binary64 pattern. -/
theorem getLsbD_zero_pack64 (neg : Bool) (k : Nat) : (pack64 neg k).getLsbD 0 = decide (k % 2 = 1) := by
  rw [pack64, BitVec.getLsbD_ofNat, Nat.testBit_zero]
  cases neg <;> simp [Nat.add_mod]

/-- Settles O26: the quotient is within the normal range, so its one rounding is the nearest magnitude, ties to even. -/
theorem floatDivRoundsToNearestEven : Obligations.FloatDivRoundsToNearestEven := by
  intro a b n m x y ha hb hx hy
  obtain ⟨hfinite, hnormal⟩ := roundBits_quotient ha hb hx hy
  have hround : fDiv64 a b = pack64 (n ^^ m) (roundBits 52 (x * 2 ^ 1074) y) := by
    rw [fDiv64_finite ha hb hx hy, round64, roundMag_of_lt hfinite]
  refine ⟨_, by rw [hround, f64_pack64_finite _ hfinite], hnormal, fun c s z hc => ?_⟩
  obtain ⟨k, rfl⟩ := eq_of_f64_finite hc
  obtain ⟨hle, heven⟩ := roundBits_nearest (p := 52) (by decide) (x * 2 ^ 1074) (Nat.pos_of_ne_zero hy) k
  rw [hround, getLsbD_zero_pack64]
  rw [natCast_mul_two_pow] at hle heven
  refine ⟨hle, fun htie hne => ?_⟩
  rw [heven htie hne]; rfl

/-! ### Special values of the product and the quotient -/

/-- Settles O27: the operations' arms, and what the patterns of an infinity and of a zero stand for. -/
theorem floatMulDivSpecialValues : Obligations.FloatMulDivSpecialValues := by
  intro a b n m x y
  refine ⟨fun h => ⟨fMul64_nan h, fDiv64_nan h⟩, ?infs, ?infFinite, ?byZero, ?zeroBy⟩
  case infs =>
    intro ha hb
    simp only [fMul64, fDiv64, ha, hb, f64_pack64_inf, true_and]
    rfl
  case infFinite =>
    intro ha hb
    simp only [fMul64, fDiv64, ha, hb, f64_pack64_inf, f64_pack64_zero, Bool.xor_comm m n, and_true]
    refine ⟨fun hy => ?_, fun hy => ?_⟩
    · simp only [if_pos hy]; exact ⟨rfl, rfl⟩
    · simp only [if_neg hy, f64_pack64_inf, and_self]
  case byZero =>
    intro ha hb
    simp only [fDiv64, ha, hb, if_true]
    refine ⟨fun hx => ?_, fun hx => ?_⟩
    · rw [if_pos hx]; rfl
    · rw [if_neg hx, f64_pack64_inf]
  case zeroBy =>
    intro ha hb hy
    simp only [fDiv64, ha, hb, if_neg hy, if_true, f64_pack64_zero]

/-! ### The comparison -/

theorem compareInts_eq_greater {x y : Int} : compareInts x y = .greater ↔ y < x := by
  unfold compareInts; split_ifs <;> simp <;> omega

theorem compareInts_eq_less {x y : Int} : compareInts x y = .less ↔ x < y := by
  unfold compareInts; split_ifs <;> simp <;> omega

theorem compareInts_eq_equal {x y : Int} : compareInts x y = .equal ↔ x = y := by
  unfold compareInts; split_ifs <;> simp <;> omega

/-- The comparison depends on the order of its operands alone. -/
theorem compareInts_congr {x y x' y' : Int} (hlt : x < y ↔ x' < y') (hgt : y < x ↔ y' < x') :
    compareInts x y = compareInts x' y' := by
  simp only [compareInts, hlt, hgt]

/-- The signed integer that a pattern's sign and its other bits stand for. -/
def orderKey (v : Word) : Int := signedMag (v.getLsbD 31) (magBits v)

/-- Under any signs the order of two magnitudes of a format is that of their bits. -/
theorem signedMag_magOfBits_lt_iff (p : Nat) (n m : Bool) (k l : Nat) :
    signedMag n (magOfBits p k) < signedMag m (magOfBits p l) ↔ signedMag n k < signedMag m l := by
  have hmono := magOfBits_strictMono p
  have hkl : magOfBits p k < magOfBits p l ↔ k < l := hmono.lt_iff_lt
  have hlk : magOfBits p l < magOfBits p k ↔ l < k := hmono.lt_iff_lt
  have hk : magOfBits p 0 < magOfBits p k ↔ 0 < k := hmono.lt_iff_lt
  have hl : magOfBits p 0 < magOfBits p l ↔ 0 < l := hmono.lt_iff_lt
  rw [magOfBits_zero] at hk hl
  cases n <;> cases m <;> simp only [signedMag, if_true, Bool.false_eq_true, if_false] <;> omega

/-- A pattern with more bits than another lies beyond it on its own side, whatever the other's sign. -/
theorem compareInts_signedMag_of_lt {k l : Nat} (n m : Bool) (h : l < k) :
    compareInts (signedMag n k) (signedMag m l) = (if n then .less else .greater) ∧
      compareInts (signedMag m l) (signedMag n k) = (if n then .greater else .less) := by
  cases n <;> cases m <;>
    simp only [signedMag, if_true, Bool.false_eq_true, if_false, compareInts_eq_less, compareInts_eq_greater] <;> omega

/-- Where neither pattern is a NaN, comparing the data is comparing the patterns' signed integers (R180). -/
theorem compareData_f32 {a b : Word} (ha : f32 a ≠ .nan) (hb : f32 b ≠ .nan) :
    compareData (f32 a) (f32 b) = compareInts (orderKey a) (orderKey b) := by
  obtain ⟨hla, hfa⟩ | ⟨hla, hfa⟩ | ⟨_, hfa⟩ := f32_cases a
  · obtain ⟨hlb, hfb⟩ | ⟨hlb, hfb⟩ | ⟨_, hfb⟩ := f32_cases b
    · rw [hfa, hfb]
      exact compareInts_congr (signedMag_magOfBits_lt_iff 23 _ _ _ _) (signedMag_magOfBits_lt_iff 23 _ _ _ _)
    · rw [hfa, hfb]
      exact (compareInts_signedMag_of_lt _ _ (hlb ▸ hla)).2.symm
    · exact absurd hfb hb
  · obtain ⟨hlb, hfb⟩ | ⟨hlb, hfb⟩ | ⟨_, hfb⟩ := f32_cases b
    · rw [hfa, hfb]
      exact (compareInts_signedMag_of_lt _ _ (hla ▸ hlb)).1.symm
    · rw [hfa, hfb, orderKey, orderKey, hla, hlb]
      cases a.getLsbD 31 <;> cases b.getLsbD 31 <;> rfl
    · exact absurd hfb hb
  · exact absurd hfa ha

theorem compareData_nan {d e : Datum} (h : d = .nan ∨ e = .nan) : compareData d e = .equal := by
  obtain rfl | rfl := h
  · cases e <;> rfl
  · cases d <;> rfl

theorem compare_int {s : State} (h : s.mode = .int) :
    s.compare = compareInts s.latchA.toInt s.latchB.toInt := by simp only [State.compare, h]

theorem compare_float {s : State} (h : s.mode = .float) :
    s.compare = compareData (f32 s.latchA) (f32 s.latchB) := by simp only [State.compare, h]

/-- Settles O29: the comparison of the signed readings, of a NaN, and of the patterns' signed integers. -/
theorem compareIsTheSignOfAAgainstB : Obligations.CompareIsTheSignOfAAgainstB := by
  intro s
  refine ⟨fun hint => ?int, fun hfloat hnan => ?nan, fun hfloat ha hb => ?ordered⟩
  case int =>
    rw [compare_int hint, compareInts_eq_greater, compareInts_eq_less, compareInts_eq_equal]
    exact ⟨Iff.rfl, Iff.rfl, BitVec.toInt_inj⟩
  case nan => rw [compare_float hfloat, compareData_nan hnan]
  case ordered =>
    rw [compare_float hfloat, compareData_f32 ha hb]
    exact ⟨compareInts_eq_greater, compareInts_eq_less, compareInts_eq_equal⟩

end Sys2Proof.Machine
end
